-- ==== Sys2Proof/Word.lean ====
section
/-! DEFINITION. The bit-vector widths of the spec (00_scope R6, R9): bytes, 16-bit words, nibbles and 12-bit
addresses. Bit 0 is the least significant bit; `a ++ b` puts `a` in the more significant bits; all values are
unsigned (R10). -/

namespace Sys2Proof

/-- An 8-bit value: a V register, a timer, a byte of memory, the immediate NN. -/
abbrev Byte := BitVec 8

/-- A 16-bit value: pc, I, a stack entry, the opcode latch, an instruction word. -/
abbrev Word := BitVec 16

/-- A 4-bit slice of the opcode (00_scope glossary): the fields X, Y and N. -/
abbrev Nibble := BitVec 4

/-- The 12-bit address immediate NNN (30_encoding R71). -/
abbrev Addr12 := BitVec 12

end Sys2Proof
end

