-- ==== Sys2Proof/Syntax.lean ====
section
/-! DEFINITION. The 35 instructions of spec/opcode_table.json, one constructor per row, in the table's order. Names
are the table's "name" column; arguments are the row's fields (30_encoding R71), fields that the instruction ignores
included, so that an instruction says its whole word. -/

namespace Sys2Proof

inductive Instr where
  /-- 0NNN, every 0x0NNN word but 00E0 and 00EE (R120). -/
  | sys (nnn : Addr12)
  /-- 00E0 (R121). -/
  | cls
  /-- 00EE (R122). -/
  | ret
  /-- 1NNN (R123). -/
  | jp (nnn : Addr12)
  /-- 2NNN (R124). -/
  | call (nnn : Addr12)
  /-- 3XNN (R125). -/
  | seImm (x : Nibble) (nn : Byte)
  /-- 4XNN (R126). -/
  | sneImm (x : Nibble) (nn : Byte)
  /-- 5XYs; `s` is encoded and not examined (R75, R127). -/
  | seReg (x y s : Nibble)
  /-- 6XNN (R150). -/
  | ldImm (x : Nibble) (nn : Byte)
  /-- 7XNN (R151). -/
  | addImm (x : Nibble) (nn : Byte)
  /-- 8XY0 (R152). -/
  | ldReg (x y : Nibble)
  /-- 8XY1 (R153). -/
  | orReg (x y : Nibble)
  /-- 8XY2 (R154). -/
  | andReg (x y : Nibble)
  /-- 8XY3 (R155). -/
  | xorReg (x y : Nibble)
  /-- 8XY4 (R156). -/
  | addReg (x y : Nibble)
  /-- 8XY5 (R157). -/
  | sub (x y : Nibble)
  /-- 8XY6; `y` is encoded and not read (R158). -/
  | shr (x y : Nibble)
  /-- 8XY7 (R159). -/
  | subn (x y : Nibble)
  /-- 8XYE; `y` is encoded and not read (R160). -/
  | shl (x y : Nibble)
  /-- 9XYs; `s` is encoded and not examined (R75, R128). -/
  | sneReg (x y s : Nibble)
  /-- ANNN (R161). -/
  | ldI (nnn : Addr12)
  /-- BNNN (R129). -/
  | jpV0 (nnn : Addr12)
  /-- CXNN (R167). -/
  | rnd (x : Nibble) (nn : Byte)
  /-- DXYN (R200). -/
  | drw (x y n : Nibble)
  /-- EX9E (R220). -/
  | skp (x : Nibble)
  /-- EXA1 (R221). -/
  | sknp (x : Nibble)
  /-- FX07 (R223). -/
  | ldVxDt (x : Nibble)
  /-- FX0A (R222). -/
  | ldVxK (x : Nibble)
  /-- FX15 (R224). -/
  | ldDtVx (x : Nibble)
  /-- FX18 (R225). -/
  | ldStVx (x : Nibble)
  /-- FX1E (R162). -/
  | addIVx (x : Nibble)
  /-- FX29 (R163). -/
  | ldFVx (x : Nibble)
  /-- FX33 (R164). -/
  | ldBVx (x : Nibble)
  /-- FX55 (R165). -/
  | ldMemVx (x : Nibble)
  /-- FX65 (R166). -/
  | ldVxMem (x : Nibble)
  deriving DecidableEq, Repr

end Sys2Proof
end

