-- ==== Sys2Proof/Decode.lean ====
section
/-! DEFINITION. Decoding (30_encoding R70 to R76) and encoding (R71, R73, spec/opcode_table.json).
Decode is total: a word is one of the 35 instructions or one of the three undefined classes, answered by name (R74). -/

namespace Sys2Proof

/-- The undefined spaces of R76. They execute as no-ops; they are no rows of the opcode table. -/
inductive UndefClass where
  /-- Family 0x8 with `op[3:0]` in 8, 9, A, B, C, D, F. -/
  | undef8
  /-- Family 0xE with `op[7:0]` neither 0x9E nor 0xA1. -/
  | undefE
  /-- Family 0xF with `op[7:0]` none of the nine defined bytes. -/
  | undefF
  deriving DecidableEq, Repr

/-- What a word decodes to (R74). -/
inductive Decoded where
  | instr (i : Instr)
  | undef (u : UndefClass)
  deriving DecidableEq, Repr

/-- Why a byte sequence gives no word. -/
inductive DecodeReject where
  /-- Fewer than the two bytes every instruction has (R70). -/
  | truncated
  deriving DecidableEq, Repr

/-! ### Fields (R71) -/

/-- `op[15:12]`, the family. -/
def family (op : Word) : Nibble := op.extractLsb' 12 4
/-- `op[11:8]`. -/
def fieldX (op : Word) : Nibble := op.extractLsb' 8 4
/-- `op[7:4]`. -/
def fieldY (op : Word) : Nibble := op.extractLsb' 4 4
/-- `op[3:0]`. -/
def fieldN (op : Word) : Nibble := op.extractLsb' 0 4
/-- `op[7:0]`. -/
def fieldNN (op : Word) : Byte := op.extractLsb' 0 8
/-- `op[11:0]`. -/
def fieldNNN (op : Word) : Addr12 := op.extractLsb' 0 12

/-! ### Decode (R74) -/

/-- Family 0x0: the whole word selects (D8). -/
def decode0 (op : Word) : Decoded :=
  if op = 0x00E0#16 then .instr .cls
  else if op = 0x00EE#16 then .instr .ret
  else .instr (.sys (fieldNNN op))

/-- Family 0x8: the low nibble selects. -/
def decode8 (op : Word) : Decoded :=
  let x := fieldX op
  let y := fieldY op
  match fieldN op with
  | 0x0#4 => .instr (.ldReg x y)
  | 0x1#4 => .instr (.orReg x y)
  | 0x2#4 => .instr (.andReg x y)
  | 0x3#4 => .instr (.xorReg x y)
  | 0x4#4 => .instr (.addReg x y)
  | 0x5#4 => .instr (.sub x y)
  | 0x6#4 => .instr (.shr x y)
  | 0x7#4 => .instr (.subn x y)
  | 0xE#4 => .instr (.shl x y)
  | _ => .undef .undef8

/-- Family 0xE: the low byte selects. -/
def decodeE (op : Word) : Decoded :=
  match fieldNN op with
  | 0x9E#8 => .instr (.skp (fieldX op))
  | 0xA1#8 => .instr (.sknp (fieldX op))
  | _ => .undef .undefE

/-- Family 0xF: the low byte selects. -/
def decodeF (op : Word) : Decoded :=
  let x := fieldX op
  match fieldNN op with
  | 0x07#8 => .instr (.ldVxDt x)
  | 0x0A#8 => .instr (.ldVxK x)
  | 0x15#8 => .instr (.ldDtVx x)
  | 0x18#8 => .instr (.ldStVx x)
  | 0x1E#8 => .instr (.addIVx x)
  | 0x29#8 => .instr (.ldFVx x)
  | 0x33#8 => .instr (.ldBVx x)
  | 0x55#8 => .instr (.ldMemVx x)
  | 0x65#8 => .instr (.ldVxMem x)
  | _ => .undef .undefF

/-- Decode a word. Families 0x5 and 0x9 do not examine the low nibble (R75): it is kept as the field `s`. -/
def decode (op : Word) : Decoded :=
  match family op with
  | 0x0#4 => decode0 op
  | 0x1#4 => .instr (.jp (fieldNNN op))
  | 0x2#4 => .instr (.call (fieldNNN op))
  | 0x3#4 => .instr (.seImm (fieldX op) (fieldNN op))
  | 0x4#4 => .instr (.sneImm (fieldX op) (fieldNN op))
  | 0x5#4 => .instr (.seReg (fieldX op) (fieldY op) (fieldN op))
  | 0x6#4 => .instr (.ldImm (fieldX op) (fieldNN op))
  | 0x7#4 => .instr (.addImm (fieldX op) (fieldNN op))
  | 0x8#4 => decode8 op
  | 0x9#4 => .instr (.sneReg (fieldX op) (fieldY op) (fieldN op))
  | 0xA#4 => .instr (.ldI (fieldNNN op))
  | 0xB#4 => .instr (.jpV0 (fieldNNN op))
  | 0xC#4 => .instr (.rnd (fieldX op) (fieldNN op))
  | 0xD#4 => .instr (.drw (fieldX op) (fieldY op) (fieldN op))
  | 0xE#4 => decodeE op
  | _ => decodeF op

/-- The word of two bytes, the byte at the lower address first (20_memory R54). -/
def wordOfBytes (hi lo : Byte) : Word := hi ++ lo

/-- The byte of a word at the lower address, bits 15:8 (R54). -/
def hiByte (op : Word) : Byte := op.extractLsb' 8 8
/-- The byte of a word at the higher address, bits 7:0 (R54). -/
def loByte (op : Word) : Byte := op.extractLsb' 0 8

/-- Decode the next instruction of a byte sequence: what it is and the bytes after it (R54, R70). -/
def decodeBytes : List Byte → Except DecodeReject (Decoded × List Byte)
  | hi :: lo :: rest => .ok (decode (wordOfBytes hi lo), rest)
  | [_] => .error .truncated
  | [] => .error .truncated

/-! ### Encode (R73, spec/opcode_table.json) -/

/-- Format A: `f NNN`. -/
def formatA (f : Nibble) (nnn : Addr12) : Word := f ++ nnn
/-- Format XNN: `f X NN`; format XS is the same with a fixed byte. -/
def formatXNN (f x : Nibble) (nn : Byte) : Word := f ++ (x ++ nn)
/-- Formats XY and XYN: `f X Y s`. -/
def formatXYN (f x y n : Nibble) : Word := f ++ (x ++ (y ++ n))

/-- The word of an instruction. -/
def encode : Instr → Word
  | .sys nnn => formatA 0x0 nnn
  | .cls => 0x00E0#16
  | .ret => 0x00EE#16
  | .jp nnn => formatA 0x1 nnn
  | .call nnn => formatA 0x2 nnn
  | .seImm x nn => formatXNN 0x3 x nn
  | .sneImm x nn => formatXNN 0x4 x nn
  | .seReg x y s => formatXYN 0x5 x y s
  | .ldImm x nn => formatXNN 0x6 x nn
  | .addImm x nn => formatXNN 0x7 x nn
  | .ldReg x y => formatXYN 0x8 x y 0x0
  | .orReg x y => formatXYN 0x8 x y 0x1
  | .andReg x y => formatXYN 0x8 x y 0x2
  | .xorReg x y => formatXYN 0x8 x y 0x3
  | .addReg x y => formatXYN 0x8 x y 0x4
  | .sub x y => formatXYN 0x8 x y 0x5
  | .shr x y => formatXYN 0x8 x y 0x6
  | .subn x y => formatXYN 0x8 x y 0x7
  | .shl x y => formatXYN 0x8 x y 0xE
  | .sneReg x y s => formatXYN 0x9 x y s
  | .ldI nnn => formatA 0xA nnn
  | .jpV0 nnn => formatA 0xB nnn
  | .rnd x nn => formatXNN 0xC x nn
  | .drw x y n => formatXYN 0xD x y n
  | .skp x => formatXNN 0xE x 0x9E
  | .sknp x => formatXNN 0xE x 0xA1
  | .ldVxDt x => formatXNN 0xF x 0x07
  | .ldVxK x => formatXNN 0xF x 0x0A
  | .ldDtVx x => formatXNN 0xF x 0x15
  | .ldStVx x => formatXNN 0xF x 0x18
  | .addIVx x => formatXNN 0xF x 0x1E
  | .ldFVx x => formatXNN 0xF x 0x29
  | .ldBVx x => formatXNN 0xF x 0x33
  | .ldMemVx x => formatXNN 0xF x 0x55
  | .ldVxMem x => formatXNN 0xF x 0x65

/-- The bytes of an instruction in memory, the byte at the lower address first (R54). -/
def encodeBytes (i : Instr) : List Byte := [hiByte (encode i), loByte (encode i)]

/-! ### Spelling (R78, D21): no rule depends on it -/

/-- A nibble as a hexadecimal digit. -/
def hexDigit (n : Nibble) : String :=
  (["0", "1", "2", "3", "4", "5", "6", "7", "8", "9", "A", "B", "C", "D", "E", "F"][n.toNat]?).getD ""

/-- The canonical spelling of an instruction: its word as four hexadecimal digits (R78). -/
def spelling (i : Instr) : String :=
  hexDigit (family (encode i)) ++ hexDigit (fieldX (encode i)) ++ hexDigit (fieldY (encode i)) ++ hexDigit (fieldN (encode i))

/-- A register operand. -/
def regText (x : Nibble) : String := "V" ++ hexDigit x

/-- A byte operand. -/
def byteText (nn : Byte) : String := "0x" ++ hexDigit (nn.extractLsb' 4 4) ++ hexDigit (nn.extractLsb' 0 4)

/-- An address operand. -/
def addrText (nnn : Addr12) : String :=
  "0x" ++ hexDigit (nnn.extractLsb' 8 4) ++ hexDigit (nnn.extractLsb' 4 4) ++ hexDigit (nnn.extractLsb' 0 4)

/-- The conventional assembler spelling (R78; from general knowledge, G3). The fields it leaves out are lost: the low
nibble of 5XY0 and 9XY0. -/
def assembly : Instr → String
  | .sys nnn => "SYS " ++ addrText nnn
  | .cls => "CLS"
  | .ret => "RET"
  | .jp nnn => "JP " ++ addrText nnn
  | .call nnn => "CALL " ++ addrText nnn
  | .seImm x nn => "SE " ++ regText x ++ ", " ++ byteText nn
  | .sneImm x nn => "SNE " ++ regText x ++ ", " ++ byteText nn
  | .seReg x y _ => "SE " ++ regText x ++ ", " ++ regText y
  | .ldImm x nn => "LD " ++ regText x ++ ", " ++ byteText nn
  | .addImm x nn => "ADD " ++ regText x ++ ", " ++ byteText nn
  | .ldReg x y => "LD " ++ regText x ++ ", " ++ regText y
  | .orReg x y => "OR " ++ regText x ++ ", " ++ regText y
  | .andReg x y => "AND " ++ regText x ++ ", " ++ regText y
  | .xorReg x y => "XOR " ++ regText x ++ ", " ++ regText y
  | .addReg x y => "ADD " ++ regText x ++ ", " ++ regText y
  | .sub x y => "SUB " ++ regText x ++ ", " ++ regText y
  | .shr x y => "SHR " ++ regText x ++ ", " ++ regText y
  | .subn x y => "SUBN " ++ regText x ++ ", " ++ regText y
  | .shl x y => "SHL " ++ regText x ++ ", " ++ regText y
  | .sneReg x y _ => "SNE " ++ regText x ++ ", " ++ regText y
  | .ldI nnn => "LD I, " ++ addrText nnn
  | .jpV0 nnn => "JP V0, " ++ addrText nnn
  | .rnd x nn => "RND " ++ regText x ++ ", " ++ byteText nn
  | .drw x y n => "DRW " ++ regText x ++ ", " ++ regText y ++ ", " ++ hexDigit n
  | .skp x => "SKP " ++ regText x
  | .sknp x => "SKNP " ++ regText x
  | .ldVxDt x => "LD " ++ regText x ++ ", DT"
  | .ldVxK x => "LD " ++ regText x ++ ", K"
  | .ldDtVx x => "LD DT, " ++ regText x
  | .ldStVx x => "LD ST, " ++ regText x
  | .addIVx x => "ADD I, " ++ regText x
  | .ldFVx x => "LD F, " ++ regText x
  | .ldBVx x => "LD B, " ++ regText x
  | .ldMemVx x => "LD [I], " ++ regText x
  | .ldVxMem x => "LD " ++ regText x ++ ", [I]"

/-- The word of an opcode-table number: bit 0 of `w` is bit 0 of the word, and bits from `nbits` up are 0. -/
def tableWord (nbits w : Nat) : Word := BitVec.ofNat 16 (w % 2 ^ nbits)

/-- What the decoder reads from an opcode-table number laid out as the hardware stores it: the host's question. -/
def decodeTableWord (nbits w : Nat) : Option Instr :=
  match decodeBytes [hiByte (tableWord nbits w), loByte (tableWord nbits w)] with
  | .ok (.instr i, _) => some i
  | .ok (.undef _, _) => none
  | .error _ => none

end Sys2Proof
end

