-- ==== Sys2Proof/Config.lean ====
section
/-! DEFINITION. What the implementation fixes (00_scope R6), the default font (70_reset R281) and the one free
value of the machine, the random byte of CXNN (42 R179). -/

namespace Sys2Proof.Config

/-- `MEM_SIZE`: addresses 0x000 to 0xFFF (R6, 20_memory R50). -/
@[simp] abbrev memSize : Nat := 4096

/-- `FONT_BASE` (R6). -/
@[simp] abbrev fontBase : Nat := 0x050

/-- Bytes of one glyph, and of the whole font table (R6). -/
@[simp] abbrev glyphBytes : Nat := 5
@[simp] abbrev fontBytes : Nat := 80

/-- `PROGRAM_BASE`: the reset value of pc and the load offset (R6). -/
@[simp] abbrev programBase : Nat := 0x200

/-- `MAX_PROGRAM_LEN` = 4096 - 0x200 (R6, R7). -/
@[simp] abbrev maxProgramLen : Nat := 0xE00

/-- `STACK_DEPTH` (R6). -/
@[simp] abbrev stackDepth : Nat := 16

/-- `SCREEN_W`, and the number of cells `SCREEN_W` × `SCREEN_H` (R6). -/
@[simp] abbrev screenW : Nat := 64
@[simp] abbrev screenCells : Nat := 2048

/-- `NUM_KEYS` (R6). -/
@[simp] abbrev numKeys : Nat := 16

/-- A font table: 16 glyphs of 5 bytes (70_reset R281). -/
abbrev Font := Vector Byte 80

/-- The default of the parameter `FONT` (R281, D20).
PRESUMED (spec G2: general knowledge, not in the source), unsafe for a claim about a glyph's pixels: log entry 2.
`HostOp.initializeCore` takes any font as its argument. -/
def defaultFont : Font := #v[
  0xF0, 0x90, 0x90, 0x90, 0xF0,
  0x20, 0x60, 0x20, 0x20, 0x70,
  0xF0, 0x10, 0xF0, 0x80, 0xF0,
  0xF0, 0x10, 0xF0, 0x10, 0xF0,
  0x90, 0x90, 0xF0, 0x10, 0x10,
  0xF0, 0x80, 0xF0, 0x10, 0xF0,
  0xF0, 0x80, 0xF0, 0x90, 0xF0,
  0xF0, 0x10, 0x20, 0x40, 0x40,
  0xF0, 0x90, 0xF0, 0x90, 0xF0,
  0xF0, 0x90, 0xF0, 0x10, 0xF0,
  0xF0, 0x90, 0xF0, 0x90, 0x90,
  0xE0, 0x90, 0xE0, 0x90, 0xE0,
  0xF0, 0x80, 0x80, 0x80, 0xF0,
  0xE0, 0x90, 0x90, 0x90, 0xE0,
  0xF0, 0x80, 0xF0, 0x80, 0xF0,
  0xF0, 0x80, 0xF0, 0x80, 0x80]

/-- The free value of CXNN: the `n`-th byte drawn from the random source. It has no body, so nothing can be proved
about it: neither a value, nor a distribution, nor a relation between draws (42 R167, R179, D19). Log entry 3; safe. -/
opaque rng : Nat → Byte

end Sys2Proof.Config
end

