-- ==== Sys2Proof/Machine/Memory.lean ====
section
/-! DEFINITION. Memory as plain data (10_state R28, 20_memory R50 to R53, R57): the bytes that differ from what reset
leaves, at rising addresses. What an unlisted address holds is the reset contents (70_reset R280, R281). -/

namespace Sys2Proof.Machine

/-- Memory: (address, byte) pairs in the canonical form `Memory.wf`. -/
abbrev Memory := List Host.Cell

/-- The byte reset leaves at address `a`: the default font at 0x050 to 0x09F, 0 elsewhere (R28, R57, R280). -/
def resetByte (a : Nat) : Byte :=
  if Config.fontBase ≤ a ∧ a < Config.fontBase + Config.fontBytes then
    (Config.defaultFont[a - Config.fontBase]?).getD 0
  else 0

/-- The canonical form: addresses rise, each is an address of the machine, and no entry holds its reset byte. -/
abbrev Memory.wf (m : Memory) : Prop :=
  m.Pairwise (fun c d => c.1 < d.1) ∧ ∀ c ∈ m, c.1 < Config.memSize ∧ c.2 ≠ resetByte c.1

/-- `memory[a]`. -/
def Memory.read : Memory → Nat → Byte
  | [], a => resetByte a
  | c :: m, a => if c.1 = a then c.2 else Memory.read m a

/-- The cell of address `a` at its place among rising addresses. -/
def Memory.insertCell : Memory → Nat → Byte → Memory
  | [], a, b => [(a, b)]
  | c :: m, a, b => if c.1 < a then c :: Memory.insertCell m a b else (a, b) :: c :: m

/-- `memory[a] <- b`: the entry of `a` goes, and a new one stands only where `b` is not the reset byte of `a`. -/
def Memory.write (m : Memory) (a : Nat) (b : Byte) : Memory :=
  if b = resetByte a then m.filter (fun c => c.1 != a)
  else Memory.insertCell (m.filter (fun c => c.1 != a)) a b

/-- Write the bytes `bs` at `a`, `a + 1`, … in increasing order (R54, R56). -/
def Memory.writeList (m : Memory) (a : Nat) : List Byte → Memory
  | [] => m
  | b :: bs => Memory.writeList (Memory.write m a b) (a + 1) bs

/-- Every one of the `len` addresses from `base` is at most 0xFFF; addresses are natural numbers and do not wrap
(R51, R52, R53). An access checks this before it reads or writes anything. -/
def spanInRange (base len : Nat) : Bool :=
  (List.range len).all fun k => decide (base + k < Config.memSize)

end Sys2Proof.Machine
end

