-- ==== Sys2Proof/Machine/State.lean ====
section
/-! DEFINITION. The machine's state as plain data (10_state R20 to R34), its stop reasons, and reset (70_reset R280). -/

namespace Sys2Proof.Machine

/-- The seven fault codes of 60_exceptions R242. A fault does not end the model's run by `Host.Outcome.fault`: the
spec gives the state it leaves (R241, R243), so the step answers a next state whose `status` records it, and the
step never answers `Host.Outcome.fault` (log entry 1). All are safe: where the source hardware goes on with undefined
behaviour, the model stops (D1). -/
inductive Fault where
  /-- Code 1. Raised by the fetch of any cycle when pc + 1 > 0xFFF (R102). Safe. -/
  | fetchOutOfRange
  /-- Code 2. Raised by DXYN and FX65 when a read address is above 0xFFF (R166, R200). Safe. -/
  | readOutOfRange
  /-- Code 3. Raised by FX33 and FX55 when a write address is above 0xFFF (R164, R165). Safe. -/
  | writeOutOfRange
  /-- Code 4. Raised by 2NNN when sp = 16 (R124). Safe. -/
  | stackOverflow
  /-- Code 5. Raised by 00EE when sp = 0 (R122). Safe. -/
  | stackUnderflow
  /-- Code 6. Raised by DXYN when a cell index is 2048 or more (R202). Safe. -/
  | framebufferOutOfRange
  /-- Code 7. Raised by EX9E and EXA1 when V[X] > 15 (R220, R221). Safe. -/
  | keyIndexOutOfRange
  deriving DecidableEq, Repr

/-- Why an instruction or a host call is turned away. -/
inductive Refusal where
  /-- Raised by an arm of `exec` whose instruction has no meaning yet; no arm does. Safe. -/
  | notModelled (mnemonic : String)
  /-- `LoadError`: raised by the host operation `loadProgram` for more than 0xE00 bytes (R282, D7). Safe. -/
  | loadError
  /-- Raised by the host operation `loadKey` for a value other than 0 and 1 (R250, D24). Safe. -/
  | keyValue
  /-- Raised by `sessionMove` for any host call but `initialize` before the first `initialize` (R284, D25). Safe. -/
  | notInitialized
  deriving DecidableEq, Repr

/-- The run status (R34, R241). -/
inductive Status where
  | running
  | faulted (code : Fault) (faultPc faultOpcode : Word)
  deriving DecidableEq, Repr

/-- The one-bit framebuffer: 2048 cells, cell `k` is bit `k` (R29). -/
abbrev Framebuffer := BitVec 2048

/-- The whole state of the core (R20 to R34; R35: there is no other). `rngDraws` is the model's own field: it counts
the bytes CXNN has drawn, and picks the next free value `Config.rng` (R179, log entry 3). -/
structure State where
  /-- V0 to VF, 8 bits each (R20, R21). -/
  v            : Vector Byte 16
  /-- Program counter (R22). -/
  pc           : Word
  /-- Index register (R23). -/
  I            : Word
  /-- Return-address stack (R24). -/
  stack        : Vector Word 16
  /-- The next free slot of the stack, 0 to 16 (R25, D6). -/
  sp           : Fin 17
  /-- Delay timer (R26). -/
  delayTimer   : Byte
  /-- Sound timer (R27). -/
  soundTimer   : Byte
  /-- 4096 bytes of memory (R28). -/
  mem          : Memory
  /-- 64 × 32 cells of value 0 or 1, row-major: cell `k` is bit `k`, read by `pixel` (R29). -/
  graphic      : Framebuffer
  /-- Keypad flags (R30). -/
  key          : Vector Bool 16
  /-- Opcode latch (R31). -/
  opcode       : Word
  /-- Draw flag (R32). -/
  drawFlag     : Bool
  /-- Modulo-8 cycle counter (R33, R248). -/
  cycleCounter : BitVec 3
  /-- Run status (R34). -/
  status       : Status
  /-- The model's own: bytes drawn from the random source so far (R179). -/
  rngDraws     : Nat
  deriving DecidableEq, Repr

/-- The state right after `initialize` with the default font (70_reset R280, R281). `rngDraws := 0` is a DESIGN
CHOICE (log entry 3): the random source is no core state and is not reset. -/
def State.reset : State where
  v            := Vector.replicate 16 0#8
  pc           := 0x200#16
  I            := 0#16
  stack        := Vector.replicate 16 0#16
  sp           := 0
  delayTimer   := 0#8
  soundTimer   := 0#8
  mem          := []
  graphic      := 0#2048
  key          := Vector.replicate 16 false
  opcode       := 0#16
  drawFlag     := false
  cycleCounter := 0#3
  status       := .running
  rngDraws     := 0

end Sys2Proof.Machine
end

