-- ==== Sys2Proof/Machine/Ops.lean ====
section
/-! DEFINITION. The named operations over registers, stack, memory, framebuffer and keys, and raising a fault. -/

namespace Sys2Proof.Machine

/-- What a meaning answers. -/
abbrev Result := Host.Outcome State Fault Refusal

/-! ### One update per field -/

def State.setPc (s : State) (a : Word) : State := { s with pc := a }
def State.setI (s : State) (a : Word) : State := { s with I := a }
def State.setStack (s : State) (st : Vector Word 16) : State := { s with stack := st }
def State.setSp (s : State) (n : Fin 17) : State := { s with sp := n }
def State.setDelayTimer (s : State) (b : Byte) : State := { s with delayTimer := b }
def State.setSoundTimer (s : State) (b : Byte) : State := { s with soundTimer := b }
def State.setMem (s : State) (m : Memory) : State := { s with mem := m }
def State.setGraphic (s : State) (g : Framebuffer) : State := { s with graphic := g }
def State.setKey (s : State) (k : Vector Bool 16) : State := { s with key := k }
def State.setOpcode (s : State) (op : Word) : State := { s with opcode := op }
def State.setDrawFlag (s : State) (b : Bool) : State := { s with drawFlag := b }
def State.setCycleCounter (s : State) (c : BitVec 3) : State := { s with cycleCounter := c }
def State.setStatus (s : State) (st : Status) : State := { s with status := st }
def State.setRngDraws (s : State) (n : Nat) : State := { s with rngDraws := n }
def State.setRegs (s : State) (v : Vector Byte 16) : State := { s with v := v }

/-! ### General registers (R20, R21) -/

/-- The number of VF. -/
abbrev VF : Nibble := 0xF#4

/-- `V[x]`. -/
def State.getV (s : State) (x : Nibble) : Byte := s.v[x.toNat]

/-- `V[x] <- b`. -/
def State.setV (s : State) (x : Nibble) (b : Byte) : State := s.setRegs (s.v.set x.toNat b)

/-! ### Program counter (R22, R108) -/

/-- A skip: `pc <- pc + 2`. -/
def State.skip (s : State) : State := s.setPc (s.pc + 2)

/-- A skip if `c` holds. -/
def State.skipIf (s : State) (c : Bool) : State := if c then s.skip else s

/-- FX0A's rewind: `pc <- pc - 2` (R222). -/
def State.rewind (s : State) : State := s.setPc (s.pc - 2)

/-! ### Raising a fault (R11, R241, R243) -/

/-- `raise Fault(code)` in step 4: the core stops. `status` becomes `Faulted(code, A, opcode)`, where pc holds A + 2 and
the latch holds the word fetched at A; nothing else changes (R12, R112, R241, R243). There is no return from a fault:
no handler, no vector (R246); only the host's `initializeCore` leaves the faulted status. -/
def raiseFault (code : Fault) (s : State) : Result :=
  .next (s.setStatus (.faulted code (s.pc - 2) s.opcode))

/-- A fetch fault: pc still holds A and the latch the previous word; nothing but `status` changes (R102, R241, R243). -/
def raiseFetchFault (s : State) : Result :=
  .next (s.setStatus (.faulted .fetchOutOfRange s.pc s.opcode))

/-! ### Return-address stack (R24, R25) -/

/-- 2NNN's push, or a fault on the 17th nested call (R124, D6); the pushed value is pc, then `pc <- target`. -/
def callTo (target : Word) (s : State) : Result :=
  if h : s.sp.val < 16 then
    .next (((s.setStack (s.stack.set s.sp.val s.pc)).setSp ⟨s.sp.val + 1, by omega⟩).setPc target)
  else raiseFault .stackOverflow s

/-- 00EE's pop into pc, or a fault on an empty stack (R122, D6). The popped entry keeps its value (R24). -/
def popReturn (s : State) : Result :=
  if h : 0 < s.sp.val then
    .next ((s.setSp ⟨s.sp.val - 1, by omega⟩).setPc (s.stack[s.sp.val - 1]))
  else raiseFault .stackUnderflow s

/-! ### Memory (R51 to R56) -/

/-- `memory[a]` of a state. -/
def State.readMem (s : State) (a : Nat) : Byte := Memory.read s.mem a

/-- Store the bytes `bs` from `base` on, or fault before any write if an address is above 0xFFF (R52, R53, R112). -/
def storeBytes (base : Nat) (bs : List Byte) (s : State) : Result :=
  if spanInRange base bs.length then .next (s.setMem (Memory.writeList s.mem base bs))
  else raiseFault .writeOutOfRange s

/-- `V[0]`, …, `V[n-1]` loaded from `base`, …, `base + n - 1`. -/
def loadRegs (m : Memory) (base : Nat) : Nat → Vector Byte 16 → Vector Byte 16
  | 0, v => v
  | n + 1, v => (loadRegs m base n v).setIfInBounds n (Memory.read m (base + n))

/-! ### Framebuffer (R29) -/

/-- Cell `k` of the framebuffer; false is 0 and true is 1. -/
def pixel (g : Framebuffer) (k : Nat) : Bool := g.getLsbD k

/-- `graphic[k] <- graphic[k] ^ bit`. -/
def xorPixel (g : Framebuffer) (k : Nat) (bit : Bool) : Framebuffer :=
  g ^^^ ((if bit then 1#2048 else 0#2048) <<< k)

/-- Draw the (cell, bit) pairs in order, with the collision so far: old pixel AND new bit, before the XOR (R203). -/
def drawCells : List (Nat × Bool) → Framebuffer × Bool → Framebuffer × Bool
  | [], acc => acc
  | (k, bit) :: cells, (g, hit) => drawCells cells (xorPixel g k bit, hit || (pixel g k && bit))

/-! ### Keypad (R30) -/

/-- `key[k]`. -/
def State.keyDown (s : State) (k : Nat) : Bool := (s.key[k]?).getD false

/-- The lowest pressed key, scanning `key[0..16)` in ascending order (R222). -/
def State.firstKey (s : State) : Option Nat := (List.range Config.numKeys).find? s.keyDown

/-! ### Random source (R179) -/

/-- `draw_byte()`: the next free value. DESIGN CHOICE of the counter, safe: log entry 3. -/
def State.drawByte (s : State) : Byte := Config.rng s.rngDraws

/-- One byte has been drawn. -/
def State.advanceRng (s : State) : State := s.setRngDraws (s.rngDraws + 1)

end Sys2Proof.Machine
end

