-- ==== Sys2Proof/Machine/Operands.lean ====
section
/-! DEFINITION. Operand forms (30_encoding R72, 20_memory R53, 42 R163, 43 R201, R202). -/

namespace Sys2Proof.Machine

/-- An address immediate as pc or I: zero-extended to 16 bits (R72). -/
def zextAddr (nnn : Addr12) : Word := nnn.setWidth 16

/-- A register's byte as a 16-bit addend: zero-extended (R10, R129, R162). -/
def zextByte (b : Byte) : Word := b.setWidth 16

/-- The effective address `I + k`, a natural number without wrap (R53). -/
def State.dataAddr (s : State) (k : Nat) : Nat := s.I.toNat + k

/-- The address of glyph `d`: the font's base plus 5 times the register's whole value, not masked (R163, D16). -/
def glyphAddr (d : Byte) : Word := BitVec.ofNat 16 (Config.fontBase + Config.glyphBytes * d.toNat)

/-- The decimal digits of a byte: hundreds, tens, units (R164). -/
def bcdDigits (b : Byte) : List Byte :=
  [BitVec.ofNat 8 (b.toNat / 100), BitVec.ofNat 8 (b.toNat / 10 % 10), BitVec.ofNat 8 (b.toNat % 10)]

/-- `V[0]`, …, `V[x]`, in order (R165). -/
def State.regsUpTo (s : State) (x : Nibble) : List Byte :=
  (List.range (x.toNat + 1)).map fun k => s.getV (BitVec.ofNat 4 k)

/-- The cell pixel (r, c) of a sprite at (x0, y0) targets, from the unreduced coordinates (R202, D13). -/
def cellIndex (x0 y0 r c : Nat) : Nat := (y0 + r) * Config.screenW + (x0 + c)

/-- Bit `c` from the left of sprite row `r`: the most significant bit is the leftmost pixel (R201). -/
def State.spriteBit (s : State) (r c : Nat) : Bool := (s.readMem (s.dataAddr r)).getLsbD (7 - c)

/-- The pixels (r, c) of an 8 × n sprite, row by row, left to right (R200). -/
def spritePixels (n : Nat) : List (Nat × Nat) :=
  (List.range n).flatMap fun r => (List.range 8).map fun c => (r, c)

/-- Each pixel's target cell with its sprite bit. -/
def State.spriteCells (s : State) (x0 y0 n : Nat) : List (Nat × Bool) :=
  (spritePixels n).map fun p => (cellIndex x0 y0 p.1 p.2, s.spriteBit p.1 p.2)

/-- Every one of the 8 × n cells is inside the framebuffer, whether its bit is 0 or 1 (R202, D13). -/
def cellsInRange (x0 y0 n : Nat) : Bool :=
  (spritePixels n).all fun p => decide (cellIndex x0 y0 p.1 p.2 < Config.screenCells)

/-- The key index in V[x], a fault if it is above 15; else go on with it (R220, R221, D17). -/
def withKeyIndex (x : Nibble) (s : State) (go : Nat → State) : Result :=
  if (s.getV x).toNat ≤ 0xF then .next (go (s.getV x).toNat) else raiseFault .keyIndexOutOfRange s

end Sys2Proof.Machine
end

