-- ==== Sys2Proof/Machine/Flags.lean ====
section
/-! DEFINITION. The values of VF as a flag (42 R156 to R160, R171; 43 R203) and the write order of R111. -/

namespace Sys2Proof.Machine

/-- A flag as the byte written to VF: 1 or 0. -/
def flagByte (b : Bool) : Byte := if b then 1#8 else 0#8

/-- Carry of 8XY4: the unsigned sum exceeds 255 (R156). -/
def carryFlag (a b : Byte) : Byte := flagByte (decide (a.toNat + b.toNat > 255))

/-- NOT borrow of `a - b`: `a >= b` (R157, R159). -/
def noBorrowFlag (a b : Byte) : Byte := flagByte (decide (a.toNat ≥ b.toNat))

/-- The bit a right shift by one shifts out: bit 0 (R158). -/
def shrFlag (a : Byte) : Byte := flagByte (a.getLsbD 0)

/-- The bit a left shift by one shifts out: bit 7 (R160). -/
def shlFlag (a : Byte) : Byte := flagByte (a.getLsbD 7)

/-- `(a + b) mod 256`, from the exact sum (R156). -/
def sum8 (a b : Byte) : Byte := BitVec.ofNat 8 (a.toNat + b.toNat)

/-- `(a - b) mod 256`, from the exact difference (R157, R159). -/
def diff8 (a b : Byte) : Byte := BitVec.ofInt 8 ((a.toNat : Int) - (b.toNat : Int))

/-- VF first, V[x] second: with x = F the result is left in VF (R111, D11). -/
def State.setFlagThen (s : State) (flag : Byte) (x : Nibble) (result : Byte) : State :=
  (s.setV VF flag).setV x result

end Sys2Proof.Machine
end

