-- ==== Sys2Proof/Machine/ControlFlow.lean ====
section
/-! DEFINITION. Step 4 of the control-flow instructions (41_control_flow R120 to R130). When a meaning runs, pc holds
A + 2 (R108). -/

namespace Sys2Proof.Machine

/-- 0NNN: no-op (R120). -/
def execSys (_nnn : Addr12) (s : State) : Result := .next s

/-- 00E0: clear the framebuffer, set drawFlag (R121). -/
def execCls (s : State) : Result :=
  .next ((s.setGraphic 0#2048).setDrawFlag true)

/-- 00EE (R122). -/
def execRet (s : State) : Result := popReturn s

/-- 1NNN (R123). -/
def execJp (nnn : Addr12) (s : State) : Result := .next (s.setPc (zextAddr nnn))

/-- 2NNN (R124). -/
def execCall (nnn : Addr12) (s : State) : Result := callTo (zextAddr nnn) s

/-- 3XNN (R125). -/
def execSeImm (x : Nibble) (nn : Byte) (s : State) : Result := .next (s.skipIf (s.getV x == nn))

/-- 4XNN (R126). -/
def execSneImm (x : Nibble) (nn : Byte) (s : State) : Result := .next (s.skipIf (s.getV x != nn))

/-- 5XY0; the low nibble is not examined (R75, R127). -/
def execSeReg (x y _s : Nibble) (s : State) : Result := .next (s.skipIf (s.getV x == s.getV y))

/-- 9XY0; the low nibble is not examined (R75, R128). -/
def execSneReg (x y _s : Nibble) (s : State) : Result := .next (s.skipIf (s.getV x != s.getV y))

/-- BNNN: always V[0], no masking to 12 bits (R129, D5). -/
def execJpV0 (nnn : Addr12) (s : State) : Result :=
  .next (s.setPc (zextAddr nnn + zextByte (s.getV 0x0#4)))

end Sys2Proof.Machine
end

