-- ==== Sys2Proof/Machine/Display.lean ====
section
/-! DEFINITION. Step 4 of the display instruction (43_display R200 to R204). -/

namespace Sys2Proof.Machine

/-- The framebuffer after DXYN's pixel loop, and whether a pixel collided (R200, R203, D12). -/
def State.drawn (s : State) (x0 y0 n : Nat) : Framebuffer × Bool :=
  drawCells (s.spriteCells x0 y0 n) (s.graphic, false)

/-- DXYN at coordinates already read: both checks before any write, the read check first (R200, R244, D23), then
VF = collision and drawFlag set, whether or not a cell changed. -/
def drawAt (x0 y0 n : Nat) (s : State) : Result :=
  if spanInRange (s.dataAddr 0) n then
    if cellsInRange x0 y0 n then
      .next (((s.setGraphic (s.drawn x0 y0 n).1).setV VF (flagByte (s.drawn x0 y0 n).2)).setDrawFlag true)
    else raiseFault .framebufferOutOfRange s
  else raiseFault .readOutOfRange s

/-- DXYN (R200). -/
def execDrw (x y n : Nibble) (s : State) : Result :=
  drawAt (s.getV x).toNat (s.getV y).toNat n.toNat s

end Sys2Proof.Machine
end

