-- ==== Sys2Proof/Machine/InputTimer.lean ====
section
/-! DEFINITION. Step 4 of the input and timer instructions (44_input_timer R220 to R225). -/

namespace Sys2Proof.Machine

/-- EX9E: skip if key V[X] is pressed (R220, D17). -/
def execSkp (x : Nibble) (s : State) : Result := withKeyIndex x s fun k => s.skipIf (s.keyDown k)

/-- EXA1: skip if key V[X] is not pressed (R221, D17). -/
def execSknp (x : Nibble) (s : State) : Result := withKeyIndex x s fun k => s.skipIf (!s.keyDown k)

/-- FX07: the value left by this cycle's decay (R223, R106). -/
def execLdVxDt (x : Nibble) (s : State) : Result := .next (s.setV x s.delayTimer)

/-- FX0A: the lowest pressed key's index, or the same instruction again (R222). -/
def execLdVxK (x : Nibble) (s : State) : Result :=
  match s.firstKey with
  | some k => .next (s.setV x (BitVec.ofNat 8 k))
  | none => .next s.rewind

/-- FX15 (R224). -/
def execLdDtVx (x : Nibble) (s : State) : Result := .next (s.setDelayTimer (s.getV x))

/-- FX18 (R225). -/
def execLdStVx (x : Nibble) (s : State) : Result := .next (s.setSoundTimer (s.getV x))

end Sys2Proof.Machine
end

