-- ==== Sys2Proof/Machine/RegisterArith.lean ====
section
/-! DEFINITION. Step 4 of the register, arithmetic and memory instructions (42_register_arith_memory R150 to R179).
Operands are read from the state before any write (R111). -/

namespace Sys2Proof.Machine

/-- 6XNN (R150). -/
def execLdImm (x : Nibble) (nn : Byte) (s : State) : Result := .next (s.setV x nn)

/-- 7XNN: modulo 256, no flag (R151). -/
def execAddImm (x : Nibble) (nn : Byte) (s : State) : Result := .next (s.setV x (sum8 (s.getV x) nn))

/-- 8XY0 (R152, D10). -/
def execLdReg (x y : Nibble) (s : State) : Result := .next (s.setV x (s.getV y))

/-- 8XY1 (R153, D10). -/
def execOrReg (x y : Nibble) (s : State) : Result := .next (s.setV x (s.getV x ||| s.getV y))

/-- 8XY2 (R154, D10). -/
def execAndReg (x y : Nibble) (s : State) : Result := .next (s.setV x (s.getV x &&& s.getV y))

/-- 8XY3 (R155, D10). -/
def execXorReg (x y : Nibble) (s : State) : Result := .next (s.setV x (s.getV x ^^^ s.getV y))

/-- 8XY4: VF = carry, then V[X] (R156). -/
def execAddReg (x y : Nibble) (s : State) : Result :=
  .next (s.setFlagThen (carryFlag (s.getV x) (s.getV y)) x (sum8 (s.getV x) (s.getV y)))

/-- 8XY5: VF = NOT borrow of V[X] - V[Y], then V[X] (R157). -/
def execSub (x y : Nibble) (s : State) : Result :=
  .next (s.setFlagThen (noBorrowFlag (s.getV x) (s.getV y)) x (diff8 (s.getV x) (s.getV y)))

/-- 8XY6: logical right shift by one of V[X]; V[Y] is not read (R158). -/
def execShr (x _y : Nibble) (s : State) : Result :=
  .next (s.setFlagThen (shrFlag (s.getV x)) x (s.getV x >>> 1))

/-- 8XY7: VF = NOT borrow of V[Y] - V[X], then V[X] (R159, D10). -/
def execSubn (x y : Nibble) (s : State) : Result :=
  .next (s.setFlagThen (noBorrowFlag (s.getV y) (s.getV x)) x (diff8 (s.getV y) (s.getV x)))

/-- 8XYE: left shift by one of V[X]; V[Y] is not read (R160). -/
def execShl (x _y : Nibble) (s : State) : Result :=
  .next (s.setFlagThen (shlFlag (s.getV x)) x (s.getV x <<< 1))

/-- ANNN (R161). -/
def execLdI (nnn : Addr12) (s : State) : Result := .next (s.setI (zextAddr nnn))

/-- FX1E: modulo 65536, VF not written (R162, D15). -/
def execAddIVx (x : Nibble) (s : State) : Result := .next (s.setI (s.I + zextByte (s.getV x)))

/-- FX29 (R163, D16). -/
def execLdFVx (x : Nibble) (s : State) : Result := .next (s.setI (glyphAddr (s.getV x)))

/-- FX33: three decimal digits at I, I + 1, I + 2 (R164). -/
def execLdBVx (x : Nibble) (s : State) : Result := storeBytes (s.dataAddr 0) (bcdDigits (s.getV x)) s

/-- FX55: V[0..=X] to I, …, I + X; I is unchanged (R165, D14). -/
def execLdMemVx (x : Nibble) (s : State) : Result := storeBytes (s.dataAddr 0) (s.regsUpTo x) s

/-- FX65: V[0..=X] from I, …, I + X; I is unchanged (R166, D14). -/
def execLdVxMem (x : Nibble) (s : State) : Result :=
  if spanInRange (s.dataAddr 0) (x.toNat + 1) then
    .next (s.setRegs (loadRegs s.mem (s.dataAddr 0) (x.toNat + 1) s.v))
  else raiseFault .readOutOfRange s

/-- CXNN: a drawn byte AND NN (R167, R179). -/
def execRnd (x : Nibble) (nn : Byte) (s : State) : Result :=
  .next ((s.setV x (s.drawByte &&& nn)).advanceRng)

end Sys2Proof.Machine
end

