-- ==== Sys2Proof/Machine/Cycle.lean ====
section
/-! DEFINITION. The cycle engine: one `doCycle` call (40_cycle_engine R100 to R112). -/

namespace Sys2Proof.Machine

/-- Step 1's read: the big-endian word at pc and pc + 1, or nothing if pc + 1 > 0xFFF (R102, R54). -/
def State.fetchWord (s : State) : Option Word :=
  if spanInRange s.pc.toNat 2 then
    some (wordOfBytes (s.readMem s.pc.toNat) (s.readMem (s.pc.toNat + 1)))
  else none

/-- A timer's decrement, not below 0 (R26, R104). -/
def decTimer (b : Byte) : Byte := if b.toNat > 0 then b - 1 else b

/-- Step 3: the counter goes up modulo 8, and both timers decay when it becomes 0 (R104). -/
def State.timerDecay (s : State) : State :=
  if s.cycleCounter + 1 = 0 then
    ((s.setCycleCounter (s.cycleCounter + 1)).setDelayTimer (decTimer s.delayTimer)).setSoundTimer (decTimer s.soundTimer)
  else s.setCycleCounter (s.cycleCounter + 1)

/-- Steps 1 to 3 of a cycle that fetched `op`: latch it, advance pc by 2, clear drawFlag, decay (R102, R103, R104). -/
def State.beginCycle (s : State) (op : Word) : State :=
  (((s.setOpcode op).setPc (s.pc + 2)).setDrawFlag false).timerDecay

/-- An undefined word of any class: step 4 changes nothing (R76, R105). -/
def execUndef (_u : UndefClass) (s : State) : Result := .next s

/-- Step 4 (R105). -/
def execDecoded (d : Decoded) (s : State) : Result :=
  match d with
  | .instr i => exec i s
  | .undef u => execUndef u s

/-- A cycle of a running core (R100). -/
def runCycle (s : State) : Result :=
  match s.fetchWord with
  | some op => execDecoded (decode op) (s.beginCycle op)
  | none => raiseFetchFault s

/-- One `doCycle` call: a running core does a cycle, a faulted one nothing (R100, R101). -/
def doCycle (s : State) : Result :=
  match s.status with
  | .running => runCycle s
  | .faulted _ _ _ => .next s

/-- The instruction word `op` written at address `a`, big-endian. -/
def State.placeWord (s : State) (a : Nat) (op : Word) : State :=
  s.setMem (Memory.writeList s.mem a [hiByte op, loByte op])

/-- `op` stored where the next cycle fetches. Where no word can be fetched (pc above 0xFFE, or a faulted core) the
fetch also needs pc in range and a running core: pc is then 0x200, and the status running (log entry 4). -/
def State.placeAtFetch (s : State) (op : Word) : State :=
  if spanInRange s.pc.toNat 2 then (s.setStatus .running).placeWord s.pc.toNat op
  else ((s.setStatus .running).setPc 0x200#16).placeWord 0x200 op

end Sys2Proof.Machine
end

