-- ==== Sys2Proof/Machine/Step.lean ====
section
/-! DEFINITION. The machine's step, and the host's placing of an instruction for it. -/

namespace Sys2Proof.Machine

/-- One step of the core: one `doCycle` call (40_cycle_engine R100). -/
def step (s : State) : Host.Outcome State Fault Refusal := doCycle s

/-- `s` with the instruction of table number `w` stored where `step` fetches its next instruction (log entry 4). -/
def State.withFetchWord (s : State) (nbits w : Nat) : State := s.placeAtFetch (tableWord nbits w)

end Sys2Proof.Machine
end

