-- ==== Sys2Proof/Machine/HostOps.lean ====
section
/-! DEFINITION. The host's interface operations (60_exceptions R249 to R256, 70_reset R280 to R284), each one atomic
call between cycles. -/

namespace Sys2Proof.Machine

/-- Memory with `font` installed at 0x050 and 0 elsewhere (R280, R281). -/
def installFont (font : Config.Font) : Memory := Memory.writeList [] Config.fontBase font.toList

/-- `initialize()`: every piece of state at its reset value, with the parameter `FONT`; the random source is not reset
(R280, R281, R179). -/
def initializeCore (font : Config.Font) (s : State) : State :=
  (State.reset.setMem (installFont font)).setRngDraws s.rngDraws

/-- `loadProgram(bytes, length)` with `bytes` the `length` bytes to copy: `LoadError` above 0xE00, else a copy to 0x200
on; nothing else changes (R282, D7). -/
def loadProgram (bytes : List Byte) (s : State) : Result :=
  if bytes.length > Config.maxProgramLen then .refused .loadError
  else .next (s.setMem (Memory.writeList s.mem Config.programBase bytes))

/-- `loadKey(keys[16])`: the 16 flags replaced wholesale; a value other than 0 and 1 is refused (R250, D24). -/
def loadKey (keys : Vector Byte 16) (s : State) : Result :=
  if keys.all fun b => b == 0#8 || b == 1#8 then .next (s.setKey (keys.map fun b => b == 1#8))
  else .refused .keyValue

/-- `loadScreen`: the framebuffer, one byte per pixel, 0 or 1 (R251). -/
def State.screenBytes (s : State) : Vector Byte 2048 := Vector.ofFn fun k => if pixel s.graphic k.val then 1#8 else 0#8

/-- The host's clear of drawFlag (R254, D29). -/
def clearDrawFlag (s : State) : State := s.setDrawFlag false

/-- The debug snapshot (R256). -/
structure Snapshot where
  pc         : Word
  opcode     : Word
  v          : Vector Byte 16
  I          : Word
  delayTimer : Byte
  soundTimer : Byte
  deriving DecidableEq, Repr

/-- The snapshot of a state. -/
def State.snapshot (s : State) : Snapshot :=
  { pc := s.pc, opcode := s.opcode, v := s.v, I := s.I, delayTimer := s.delayTimer, soundTimer := s.soundTimer }

/-- The sound level: active while `sound_timer > 0` (R249). -/
def State.soundActive (s : State) : Bool := decide (s.soundTimer.toNat > 0)

/-- The host's moves: exactly the operations of R252, R253. -/
inductive HostOp where
  /-- `initialize()` with the model parameter `FONT` (R280, R281). -/
  | initializeCore (font : Config.Font)
  /-- `loadProgram(bytes, length)` (R282). -/
  | loadProgram (bytes : List Byte)
  /-- `loadKey(keys[16])` (R250). -/
  | loadKey (keys : Vector Byte 16)
  /-- `doCycle()` (R100). -/
  | doCycle
  /-- `loadScreen(buffer[2048])` (R251). -/
  | loadScreen
  /-- Reading drawFlag (R254). -/
  | readDrawFlag
  /-- Clearing drawFlag (R254). -/
  | clearDrawFlag
  /-- The debug snapshot (R256). -/
  | snapshot
  /-- Reading the sound level (R249). -/
  | soundLevel
  deriving DecidableEq, Repr

/-- What a host call returns (R252). -/
inductive HostReply where
  | done
  | rejected (r : Refusal)
  | screen (cells : Vector Byte 2048)
  | flag (b : Bool)
  | registers (r : Snapshot)
  | sound (active : Bool)
  deriving DecidableEq, Repr

/-- The effect of one host call on the state; a refused call changes nothing (R252, R253). -/
def hostMove (op : HostOp) (s : State) : Result :=
  match op with
  | .initializeCore font => .next (Sys2Proof.Machine.initializeCore font s)
  | .loadProgram bytes => Sys2Proof.Machine.loadProgram bytes s
  | .loadKey keys => Sys2Proof.Machine.loadKey keys s
  | .doCycle => step s
  | .loadScreen => .next s
  | .readDrawFlag => .next s
  | .clearDrawFlag => .next (Sys2Proof.Machine.clearDrawFlag s)
  | .snapshot => .next s
  | .soundLevel => .next s

/-- The result of a host call that only changes the state. -/
def replyOf : Result → HostReply
  | .next _ => .done
  | .fault _ => .done
  | .refused r => .rejected r

/-- The result of one host call (R252). -/
def hostReply (op : HostOp) (s : State) : HostReply :=
  match op with
  | .initializeCore _ => .done
  | .loadProgram bytes => replyOf (Sys2Proof.Machine.loadProgram bytes s)
  | .loadKey keys => replyOf (Sys2Proof.Machine.loadKey keys s)
  | .doCycle => .done
  | .loadScreen => .screen s.screenBytes
  | .readDrawFlag => .flag s.drawFlag
  | .clearDrawFlag => .done
  | .snapshot => .registers s.snapshot
  | .soundLevel => .sound s.soundActive

/-- The state after a host call: the same one if the call is refused. -/
def afterMove (op : HostOp) (s : State) : State :=
  match hostMove op s with
  | .next t => t
  | .fault _ => s
  | .refused _ => s

/-- A run: host calls in order, `doCycle` among them (R253, R258). -/
def runMoves (ops : List HostOp) (s : State) : State := ops.foldl (fun t op => afterMove op t) s

/-- A launch: `initialize` then `loadProgram` (R258, R283). -/
def launch (font : Config.Font) (bytes : List Byte) (s : State) : Result :=
  Sys2Proof.Machine.loadProgram bytes (Sys2Proof.Machine.initializeCore font s)

/-- What the host holds: no state before the first `initialize`, and one after it (R284, D25). -/
abbrev Session := Option State

/-- One host call on a session. Before the first `initialize` every other call is refused (R284, D25); no byte has been
drawn from the random source then (log entries 3 and 6). -/
def sessionMove (op : HostOp) (c : Session) : Result :=
  match c with
  | some s => hostMove op s
  | none =>
    match op with
    | .initializeCore font => .next (Sys2Proof.Machine.initializeCore font State.reset)
    | .loadProgram _ => .refused .notInitialized
    | .loadKey _ => .refused .notInitialized
    | .doCycle => .refused .notInitialized
    | .loadScreen => .refused .notInitialized
    | .readDrawFlag => .refused .notInitialized
    | .clearDrawFlag => .refused .notInitialized
    | .snapshot => .refused .notInitialized
    | .soundLevel => .refused .notInitialized

end Sys2Proof.Machine
end

