-- ==== Sys2Proof/Machine/Runs.lean ====
section
/-! DEFINITION. Runs, finite and infinite, and their outcomes: a fault, an idle loop, a blocked FX0A, a hang
(60_exceptions R258, D27). -/

namespace Sys2Proof.Machine

/-- The moves of a run: core steps and host calls, finitely or infinitely many (R253, R258). -/
inductive Moves where
  | finite (ops : List HostOp)
  | infinite (ops : Nat → HostOp)

/-- Move `k`, if the run has one. -/
def Moves.get (m : Moves) (k : Nat) : Option HostOp :=
  match m with
  | .finite ops => ops[k]?
  | .infinite ops => some (ops k)

/-- A run: its first state and its moves (R258). -/
structure Run where
  start : State
  moves : Moves

/-- A run starts from a launch (R258, R284). -/
def Run.FromLaunch (r : Run) : Prop := ∃ font bytes s, launch font bytes s = .next r.start

/-- One move, or none where a finite run is over. -/
def moveOrStay (op : Option HostOp) (s : State) : State :=
  match op with
  | some op => afterMove op s
  | none => s

/-- The state before move `k`; after the last move of a finite run, its last state. -/
def Run.state (r : Run) : Nat → State
  | 0 => r.start
  | k + 1 => moveOrStay (r.moves.get k) (Run.state r k)

/-- No key is pressed (R222). -/
def State.noKeyDown (s : State) : Bool := s.firstKey.isNone

/-- The core is at an idle loop: the word at pc is 1AAA with A = pc (R258, 30_encoding R79). -/
def AtIdleLoop (s : State) : Prop := ∃ nnn : Addr12, s.pc = zextAddr nnn ∧ s.fetchWord = some (encode (.jp nnn))

/-- The core is at an FX0A that blocks: no key is pressed (R222, R258). -/
def AtKeyWait (s : State) : Prop := (∃ x, s.fetchWord = some (encode (.ldVxK x))) ∧ s.noKeyDown = true

/-- The run reaches a fault: never a successful end (R243, R258). -/
def Run.ReachesFault (r : Run) : Prop := ∃ k, (r.state k).status ≠ .running

/-- The run reaches no fault: what a claim about a program must show (R243, R258). -/
def Run.FaultFree (r : Run) : Prop := ∀ k, (r.state k).status = .running

/-- The run's FX0A at state `k` blocks, and the host loads no key from then on (R258, D27). -/
def Run.WaitsForKeyFrom (r : Run) (k : Nat) : Prop :=
  AtKeyWait (r.state k) ∧ ∀ j ≥ k, (r.state j).noKeyDown = true

/-- The program ends at state `k`, on a core that has not faulted: at an idle loop, or at an FX0A that blocks while the
host loads no key (R258, D27). -/
def Run.EndsAt (r : Run) (k : Nat) : Prop :=
  (r.state k).status = .running ∧ (AtIdleLoop (r.state k) ∨ r.WaitsForKeyFrom k)

/-- The hang: an infinite run that never reaches an idle loop (R258). A key wait that lasts for ever is one too
(R222). -/
def Run.Hangs (r : Run) : Prop := (∃ ops, r.moves = .infinite ops) ∧ ∀ k, ¬ AtIdleLoop (r.state k)

end Sys2Proof.Machine
end

