-- ==== Sys2Proof/Safety.lean ====
section
/-! DEFINITION. The terms statements use: which fields a step may change, the invariants, and the moves of runs. -/

namespace Sys2Proof.Machine

/-- The fields of `State`, by name, for frames. -/
inductive Field where
  | v | pc | I | stack | sp | delayTimer | soundTimer | mem | graphic | key
  | opcode | drawFlag | cycleCounter | status | rngDraws
  deriving DecidableEq, Repr

/-- Two states agree on a field; memory by the byte at every address. -/
def Field.agrees (f : Field) (s t : State) : Prop :=
  match f with
  | .v => ∀ r, t.getV r = s.getV r
  | .pc => t.pc = s.pc
  | .I => t.I = s.I
  | .stack => t.stack = s.stack
  | .sp => t.sp = s.sp
  | .delayTimer => t.delayTimer = s.delayTimer
  | .soundTimer => t.soundTimer = s.soundTimer
  | .mem => ∀ a, t.readMem a = s.readMem a
  | .graphic => ∀ k, pixel t.graphic k = pixel s.graphic k
  | .key => ∀ k, t.keyDown k = s.keyDown k
  | .opcode => t.opcode = s.opcode
  | .drawFlag => t.drawFlag = s.drawFlag
  | .cycleCounter => t.cycleCounter = s.cycleCounter
  | .status => t.status = s.status
  | .rngDraws => t.rngDraws = s.rngDraws

/-- The frame: `t` is `s` but perhaps for the fields listed. -/
def UnchangedExcept (fs : List Field) (s t : State) : Prop := ∀ f, f ∉ fs → f.agrees s t

/-- Every register but those listed is as before. -/
def RegsUnchangedExcept (xs : List Nibble) (s t : State) : Prop := ∀ r, r ∉ xs → t.getV r = s.getV r

/-- Step 3's effect on the counter and the timers, in numbers: the counter goes up modulo 8, and each timer loses 1,
but not below 0, exactly when the counter was 7 (40_cycle_engine R104). -/
def Decays (s t : State) : Prop :=
  t.cycleCounter.toNat = (s.cycleCounter.toNat + 1) % 8 ∧
  t.delayTimer.toNat = s.delayTimer.toNat - (if s.cycleCounter.toNat = 7 then 1 else 0) ∧
  t.soundTimer.toNat = s.soundTimer.toNat - (if s.cycleCounter.toNat = 7 then 1 else 0)

/-- Every word that agrees with `mtch` under `mask` decodes to the instruction `f` reads from it: a row of
spec/opcode_table.json. -/
def DecodesAs (mask mtch : Word) (f : Word → Instr) : Prop :=
  ∀ w : Word, w &&& mask = mtch → decode w = .instr (f w)

/-- The instruction the core fetches and decodes next, if it is running and its fetch is in range. -/
def NextInstr (s : State) (i : Instr) : Prop :=
  s.status = .running ∧ ∃ w, s.fetchWord = some w ∧ decode w = .instr i

/-- `t` is `s` stopped by a fault of step 4: only `status` differs (60_exceptions R241, R243). -/
def StoppedBy (code : Fault) (s t : State) : Prop :=
  t.status = .faulted code (s.pc - 2) s.opcode ∧ UnchangedExcept [.status] s t

/-- The invariant of R22: pc is at most 0x10FE, and every saved return address at most 0x1000. -/
def PcInRange (s : State) : Prop :=
  s.pc.toNat ≤ 0x10FE ∧ ∀ j (h : j < 16), (s.stack[j]).toNat ≤ 0x1000

/-- Host calls that leave the program alone: neither `initialize` nor `loadProgram` (60_exceptions R253). -/
def HostOp.KeepsProgram (op : HostOp) : Prop := (∀ font, op ≠ .initializeCore font) ∧ ∀ bytes, op ≠ .loadProgram bytes

/-- A call that presses no key: not a `loadKey` with a 1 (R222, R250). -/
def HostOp.PressesNoKey (op : HostOp) : Prop := ∀ keys, op = .loadKey keys → ∀ k (h : k < 16), keys[k] ≠ 1#8

/-- Every move of a run from state `k` on is one of those `P` allows. -/
def Run.MovesFrom (r : Run) (k : Nat) (P : HostOp → Prop) : Prop := ∀ j ≥ k, ∀ op, r.moves.get j = some op → P op

end Sys2Proof.Machine
end

