-- ==== Sys2Proof/Certificates/Slice0/Obligations.lean ====
section
/-! DEFINITION. The statements for the provers. Each docstring names the rules of spec/ it formalises. Behind the
rules stand, where a statement rests on them, the spec's own choices where its source is silent (D<n>,
spec/92_eei_decisions.md; log entry 5) and the model's log entries: such a statement is derived. -/

open Sys2Proof Sys2Proof.Machine

/-! ### Encoding (30_encoding) -/

/-- Decoding an encoded well-formed instruction gives it back, at every operand value (R71, R73, R74; D8, D9), the fields
an instruction keeps and does not examine included (the model's choice, log entry 12). -/
def Obligations.DecodeEncodeRoundTrip : Prop := ∀ i : Instr, i.wf = true → decode (encode i) = .instr i

/-- A word that decodes to an instruction is that instruction's word, and the instruction is well formed: no bit of a
word is dropped. The rules give the fields and patterns (R71, R73, R74; D8, D9); that an instruction keeps also the fields
it does not examine (5XYs, 9XYs, 8XY6, 8XYE, 0NNN) is the model's choice (log entry 12). -/
def Obligations.EncodeInvertsDecode : Prop :=
  ∀ (w : Word) (i : Instr), decode w = .instr i → i.wf = true ∧ encode i = w

/-- R76: the three undefined spaces, exactly; an undefined word is a no-op cycle (fetch, drawFlag clear, decay), and
family 0x0 has no undefined word. -/
def Obligations.UndefinedWordsAreNoOps : Prop :=
  (∀ w, decode w = .undef .undef8 ↔
    family w = 0x8#4 ∧ fieldN w ∈ [0x8#4, 0x9#4, 0xA#4, 0xB#4, 0xC#4, 0xD#4, 0xF#4]) ∧
  (∀ w, decode w = .undef .undefE ↔ family w = 0xE#4 ∧ fieldNN w ∉ [0x9E#8, 0xA1#8]) ∧
  (∀ w, decode w = .undef .undefF ↔ family w = 0xF#4 ∧
    fieldNN w ∉ [0x07#8, 0x0A#8, 0x15#8, 0x18#8, 0x1E#8, 0x29#8, 0x33#8, 0x55#8, 0x65#8]) ∧
  (∀ w, family w = 0x0#4 → w ≠ 0x00E0#16 → w ≠ 0x00EE#16 → decode w = .instr (.sys (fieldNNN w))) ∧
  (∀ (s : State) w u, s.status = .running → s.fetchWord = some w → decode w = .undef u →
    ∃ t, step s = .next t ∧ t.pc = s.pc + 2 ∧ t.opcode = w ∧ t.drawFlag = false ∧ Decays s t ∧
      UnchangedExcept [.pc, .opcode, .drawFlag, .cycleCounter, .delayTimer, .soundTimer] s t)

/-- Words written out bit by bit from spec/opcode_table.json decode to their instructions (a sanity statement). -/
def Obligations.SampleWordsDecode : Prop :=
  decode 0b0001001000110100#16 = .instr (.jp 0x234#12) ∧
  decode 0b1000101010111110#16 = .instr (.shl 0xA#4 0xB#4) ∧
  decode 0b1101000000010001#16 = .instr (.drw 0x0#4 0x1#4 0x1#4) ∧
  decode 0b1110101010100001#16 = .instr (.sknp 0xA#4) ∧
  decode 0b1111101001100101#16 = .instr (.ldVxMem 0xA#4)

/-! ### The cycle (40_cycle_engine) -/

/-- A running core whose fetch gives a word of instruction `i` does steps 1 to 3 and then exec of `i` (R100, R105). -/
def Obligations.StepRunsDecodedInstruction : Prop :=
  ∀ (s : State) (w : Word) (i : Instr), s.status = .running → s.fetchWord = some w → decode w = .instr i →
    step s = exec i (s.beginCycle w)

/-- What steps 1 to 3 leave: the word latched, pc advanced by 2, drawFlag clear, the counter and the timers decayed, the
rest as before (R102, R103, R104). -/
def Obligations.StepsOneToThreeEffect : Prop :=
  ∀ (s : State) (w : Word), let t := s.beginCycle w
    t.opcode = w ∧ t.pc = s.pc + 2 ∧ t.drawFlag = false ∧ Decays s t ∧
    UnchangedExcept [.pc, .opcode, .drawFlag, .cycleCounter, .delayTimer, .soundTimer] s t

/-- The fetch reads the two bytes at pc and pc + 1, big-endian, at an odd pc too, exactly when pc + 1 ≤ 0xFFF (R54, R55,
R102; D3, D4). -/
def Obligations.FetchReadsBigEndian : Prop :=
  ∀ s : State,
    (s.pc.toNat + 1 ≤ 0xFFF → ∃ w, s.fetchWord = some w ∧
      w.toNat = (s.readMem s.pc.toNat).toNat * 256 + (s.readMem (s.pc.toNat + 1)).toNat) ∧
    (0xFFF < s.pc.toNat + 1 → s.fetchWord = none)

/-- A fetch beyond 0xFFF changes nothing but status, which records A and the previous opcode (R102, R241, R243; D1, D2,
D3). -/
def Obligations.FetchFaultChangesOnlyStatus : Prop :=
  ∀ s : State, s.status = .running → 0xFFF < s.pc.toNat + 1 →
    step s = .next { s with status := .faulted .fetchOutOfRange s.pc s.opcode }

/-- On a faulted core doCycle changes nothing (R101; D2, D30). -/
def Obligations.FaultedCoreIsFrozen : Prop :=
  ∀ (s : State) code a op, s.status = .faulted code a op → step s = .next s

/-- Every doCycle call answers a next state, from every state: no step stops the model, and none is refused (R100, R241;
D1: a fault is a state). -/
def Obligations.EveryStepAnswersNext : Prop := ∀ s : State, ∃ t, step s = .next t

/-- After a cycle that fetched, drawFlag is true exactly if the cycle executed 00E0 or DXYN; a DXYN that faults writes
nothing (R32, R103, R112; D2). -/
def Obligations.DrawFlagTellsDrawOrClear : Prop :=
  ∀ (s t : State) (w : Word), s.status = .running → s.fetchWord = some w → step s = .next t →
    (t.drawFlag = true ↔
      decode w = .instr .cls ∨ ((∃ x y n, decode w = .instr (.drw x y n)) ∧ t.status = .running))

/-- Every cycle that fetches latches its word and advances the counter modulo 8, whatever the word is; each timer decays,
unless the cycle executes the instruction that writes it: then it holds the register's value, not decayed (R31, R104,
R106, R107). -/
def Obligations.TimersAfterCycle : Prop :=
  ∀ s t : State, ∀ w, s.status = .running → s.fetchWord = some w → step s = .next t →
    t.opcode = w ∧ t.cycleCounter.toNat = (s.cycleCounter.toNat + 1) % 8 ∧
    ((∀ x, decode w ≠ .instr (.ldDtVx x)) →
      t.delayTimer.toNat = s.delayTimer.toNat - (if s.cycleCounter.toNat = 7 then 1 else 0)) ∧
    (∀ x, decode w = .instr (.ldDtVx x) → t.delayTimer = s.getV x) ∧
    ((∀ x, decode w ≠ .instr (.ldStVx x)) →
      t.soundTimer.toNat = s.soundTimer.toNat - (if s.cycleCounter.toNat = 7 then 1 else 0)) ∧
    (∀ x, decode w = .instr (.ldStVx x) → t.soundTimer = s.getV x)

/-- From any phase, eight decays bring the counter back and take exactly 1 from each timer, not below 0; the first
decrement of each timer comes after 8 minus the phase of them (R104, R106, R288; C11). -/
def Obligations.EightDecaysDecrementOnce : Prop :=
  ∀ s : State,
    ((State.timerDecay^[8] s).cycleCounter = s.cycleCounter ∧
      (State.timerDecay^[8] s).delayTimer.toNat = s.delayTimer.toNat - 1 ∧
      (State.timerDecay^[8] s).soundTimer.toNat = s.soundTimer.toNat - 1) ∧
    (∀ k < 8 - s.cycleCounter.toNat,
      (State.timerDecay^[k] s).delayTimer = s.delayTimer ∧ (State.timerDecay^[k] s).soundTimer = s.soundTimer) ∧
    (State.timerDecay^[8 - s.cycleCounter.toNat] s).delayTimer.toNat = s.delayTimer.toNat - 1 ∧
    (State.timerDecay^[8 - s.cycleCounter.toNat] s).soundTimer.toNat = s.soundTimer.toNat - 1

/-! ### Whole-machine rules (10_state R36, 20_memory R56, 60_exceptions) -/

/-- No step writes the key flags (R30, R250, R289). So a run at an FX0A that blocks, with no later initialize, loadProgram
or key press by the host, ends there: it stays at that FX0A, where only opcode, drawFlag, the counter and the timers
change, and if it is infinite, and was at no idle loop before, it hangs (R222, R258; D27; log entry 15). -/
def Obligations.NoStepWritesKeys : Prop :=
  (∀ s t : State, step s = .next t → ∀ k, t.keyDown k = s.keyDown k) ∧
  (∀ (r : Run) (k : Nat) (x : Nibble), NextInstr (r.state k) (.ldVxK x) →
    (∀ i < 16, (r.state k).keyDown i = false) → r.MovesFrom k (fun op => op.KeepsProgram ∧ op.PressesNoKey) →
    r.EndsAt k ∧
    (∀ j ≥ k, NextInstr (r.state j) (.ldVxK x) ∧
      UnchangedExcept [.opcode, .drawFlag, .cycleCounter, .delayTimer, .soundTimer] (r.state k) (r.state j)) ∧
    (∀ ops, r.moves = .infinite ops → (∀ j < k, ¬ AtIdleLoop (r.state j)) → r.Hangs))

/-- Only FX33 and FX55 write memory: any other step leaves every byte (R36, R56). -/
def Obligations.OnlyStoresWriteMemory : Prop :=
  ∀ s t : State, step s = .next t → (∀ x, ¬ NextInstr s (.ldBVx x) ∧ ¬ NextInstr s (.ldMemVx x)) →
    ∀ a, t.readMem a = s.readMem a

/-- Only 00E0 and DXYN write the framebuffer, and only ANNN, FX1E and FX29 write I; in particular FX55 and FX65 do not
(R23, R29, R36; C10, D14). -/
def Obligations.WritersOfFramebufferAndIndex : Prop :=
  ∀ s t : State, step s = .next t →
    (¬ NextInstr s .cls → (∀ x y n, ¬ NextInstr s (.drw x y n)) → ∀ k, pixel t.graphic k = pixel s.graphic k) ∧
    ((∀ nnn, ¬ NextInstr s (.ldI nnn)) → (∀ x, ¬ NextInstr s (.addIVx x) ∧ ¬ NextInstr s (.ldFVx x)) → t.I = s.I)

/-- Only 2NNN writes the return stack, and only the entry at sp; a popped entry keeps its value; only 2NNN and 00EE move
sp (R24, R25). -/
def Obligations.OnlyCallAndReturnTouchStack : Prop :=
  ∀ s t : State, step s = .next t →
    ((∀ nnn, ¬ NextInstr s (.call nnn)) → t.stack = s.stack) ∧
    (∀ j (h : j < 16), j ≠ s.sp.val → t.stack[j] = s.stack[j]) ∧
    ((∀ nnn, ¬ NextInstr s (.call nnn)) → ¬ NextInstr s .ret → t.sp = s.sp)

/-- Apart from CXNN no step depends on the random source or draws from it (R35, R179; the counter of draws is the
model's own, log entry 3). -/
def Obligations.OnlyRndUsesRandomSource : Prop :=
  ∀ (s t : State) (n : Nat), (∀ x nn, ¬ NextInstr s (.rnd x nn)) → step s = .next t →
    step (s.setRngDraws n) = .next (t.setRngDraws n)

/-! ### Faults (60_exceptions R241 to R244) -/

/-- A fault of step 4 is precise: fault_pc is the instruction's address, fault_opcode its word, steps 1 to 3 stand, and
none of the instruction's writes happened (R112, R241, R243; D1, D2). -/
def Obligations.ExecuteFaultsArePrecise : Prop :=
  ∀ (s t : State) (w : Word), s.status = .running → s.fetchWord = some w → step s = .next t → t.status ≠ .running →
    (∃ code, t.status = .faulted code s.pc w) ∧ t.opcode = w ∧ t.pc = s.pc + 2 ∧ t.drawFlag = false ∧ Decays s t ∧
    UnchangedExcept [.pc, .opcode, .drawFlag, .cycleCounter, .delayTimer, .soundTimer, .status] s t

/-- Each code is raised only by the instructions and under the conditions of the table of R242 (D1, D3, D6, D13, D17,
D23). -/
def Obligations.FaultCodesHaveTheirCauses : Prop :=
  ∀ (s t : State) (code : Fault) (a op : Word), s.status = .running → step s = .next t →
    t.status = .faulted code a op →
    (code = .fetchOutOfRange → 0xFFF < s.pc.toNat + 1) ∧
    (code = .readOutOfRange →
      (∃ x, NextInstr s (.ldVxMem x) ∧ 0xFFF < s.dataAddr x.toNat) ∨
      (∃ x y n, NextInstr s (.drw x y n) ∧ 0 < n.toNat ∧ 0xFFF < s.dataAddr (n.toNat - 1))) ∧
    (code = .writeOutOfRange →
      (∃ x, NextInstr s (.ldBVx x) ∧ 0xFFF < s.dataAddr 2) ∨
      (∃ x, NextInstr s (.ldMemVx x) ∧ 0xFFF < s.dataAddr x.toNat)) ∧
    (code = .stackOverflow → (∃ nnn, NextInstr s (.call nnn)) ∧ s.sp.val = 16) ∧
    (code = .stackUnderflow → NextInstr s .ret ∧ s.sp.val = 0) ∧
    (code = .framebufferOutOfRange → ∃ x y n, NextInstr s (.drw x y n) ∧
      ∃ r < n.toNat, ∃ c < 8, 2048 ≤ ((s.getV y).toNat + r) * 64 + ((s.getV x).toNat + c)) ∧
    (code = .keyIndexOutOfRange → ∃ x, (NextInstr s (.skp x) ∨ NextInstr s (.sknp x)) ∧ 15 < (s.getV x).toNat)

/-! ### Invariants -/

/-- Every step keeps memory's canonical form, addresses 0x000 to 0xFFF only (R28, R50; the form is the model's own, log entry 11). -/
def Obligations.StepKeepsMemoryCanonical : Prop :=
  ∀ s t : State, Memory.wf s.mem → step s = .next t → Memory.wf t.mem

/-- Every step keeps pc at most 0x10FE and every saved return address at most 0x1000, so pc never wraps (R22, D5). -/
def Obligations.StepKeepsPcInRange : Prop := ∀ s t : State, PcInRange s → step s = .next t → PcInRange t

/-- Reset meets both invariants: memory's canonical form, which is the model's own (log entry 11), and the range of pc
(R22, R280). -/
def Obligations.ResetMeetsInvariants : Prop := Memory.wf State.reset.mem ∧ PcInRange State.reset

/-- Every host operation keeps both invariants (R252, R253): memory's canonical form, which is the model's own (log entry
11), and the range of pc (R22). -/
def Obligations.HostMovesKeepInvariants : Prop :=
  ∀ (op : HostOp) (s t : State), Memory.wf s.mem → PcInRange s → hostMove op s = .next t →
    Memory.wf t.mem ∧ PcInRange t

/-! ### Control flow (41_control_flow) -/

/-- R120: 0NNN decodes as stated, writes no state in step 4, and its cycle advances pc by 2. -/
def Obligations.SysIsNoOp : Prop :=
  (∀ w : Word, w &&& 0xF000#16 = 0x0000#16 → w ≠ 0x00E0#16 → w ≠ 0x00EE#16 →
    decode w = .instr (.sys (fieldNNN w))) ∧
  (∀ nnn s, exec (.sys nnn) s = .next s) ∧
  (∀ s nnn, NextInstr s (.sys nnn) → ∃ t, step s = .next t ∧ t.pc = s.pc + 2 ∧
    UnchangedExcept [.pc, .opcode, .drawFlag, .cycleCounter, .delayTimer, .soundTimer] s t)

/-- R121: 00E0 clears every cell and sets drawFlag, and writes nothing else, VF included. -/
def Obligations.ClsClearsFramebuffer : Prop :=
  DecodesAs 0xFFFF#16 0x00E0#16 (fun _ => .cls) ∧
  ∀ s, ∃ t, exec .cls s = .next t ∧ (∀ k, pixel t.graphic k = false) ∧ t.drawFlag = true ∧
    UnchangedExcept [.graphic, .drawFlag] s t

/-- 00EE pops the entry below sp into pc; on an empty stack it stops the core (R122; D6). -/
def Obligations.RetPopsOrFaults : Prop :=
  DecodesAs 0xFFFF#16 0x00EE#16 (fun _ => .ret) ∧
  (∀ s : State, 0 < s.sp.val → ∃ t, exec .ret s = .next t ∧ t.sp.val = s.sp.val - 1 ∧
    t.pc = s.stack[s.sp.val - 1] ∧ UnchangedExcept [.sp, .pc] s t) ∧
  (∀ s : State, s.sp.val = 0 → ∃ t, exec .ret s = .next t ∧ StoppedBy .stackUnderflow s t)

/-- R123: 1NNN sets pc to NNN and nothing else; a target 0xFFF faults at the next fetch only; a jump to itself is the
idle loop, which keeps stepping with the timers decaying and no other change. A run at an idle loop, with no later
initialize or loadProgram, ends there and stays there; but for the host's keys only opcode, drawFlag, the counter and the
timers change (R258; D27). -/
def Obligations.JumpSetsPc : Prop :=
  DecodesAs 0xF000#16 0x1000#16 (fun w => .jp (fieldNNN w)) ∧
  (∀ nnn s, ∃ t, exec (.jp nnn) s = .next t ∧ t.pc.toNat = nnn.toNat ∧ UnchangedExcept [.pc] s t ∧
    (nnn = 0xFFF#12 → t.fetchWord = none)) ∧
  (∀ s : State, s.status = .running → AtIdleLoop s → ∃ t, step s = .next t ∧ AtIdleLoop t ∧ Decays s t ∧
    t.drawFlag = false ∧ UnchangedExcept [.opcode, .drawFlag, .cycleCounter, .delayTimer, .soundTimer] s t) ∧
  (∀ (r : Run) (k : Nat), (r.state k).status = .running → AtIdleLoop (r.state k) → r.MovesFrom k HostOp.KeepsProgram →
    r.EndsAt k ∧ ∀ j ≥ k, AtIdleLoop (r.state j) ∧
      UnchangedExcept [.key, .opcode, .drawFlag, .cycleCounter, .delayTimer, .soundTimer] (r.state k) (r.state j))

/-- 2NNN saves pc (A + 2) at the free slot and jumps to NNN; with 16 live entries it stops the core (R124; D6). -/
def Obligations.CallPushesOrFaults : Prop :=
  DecodesAs 0xF000#16 0x2000#16 (fun w => .call (fieldNNN w)) ∧
  (∀ nnn (s : State) (h : s.sp.val < 16), ∃ t, exec (.call nnn) s = .next t ∧ t.stack[s.sp.val] = s.pc ∧
    (∀ j (_ : j < 16), j ≠ s.sp.val → t.stack[j] = s.stack[j]) ∧ t.sp.val = s.sp.val + 1 ∧
    t.pc.toNat = nnn.toNat ∧ UnchangedExcept [.stack, .sp, .pc] s t) ∧
  (∀ nnn (s : State), s.sp.val = 16 → ∃ t, exec (.call nnn) s = .next t ∧ StoppedBy .stackOverflow s t)

/-- R125, R126: 3XNN and 4XNN add 2 to pc if V[X] = NN, respectively V[X] ≠ NN, and change nothing else. -/
def Obligations.ImmediateSkips : Prop :=
  DecodesAs 0xF000#16 0x3000#16 (fun w => .seImm (fieldX w) (fieldNN w)) ∧
  DecodesAs 0xF000#16 0x4000#16 (fun w => .sneImm (fieldX w) (fieldNN w)) ∧
  ∀ x nn (s : State),
    (∃ t, exec (.seImm x nn) s = .next t ∧ t.pc = (if s.getV x = nn then s.pc + 2 else s.pc) ∧
      UnchangedExcept [.pc] s t) ∧
    (∃ t, exec (.sneImm x nn) s = .next t ∧ t.pc = (if s.getV x = nn then s.pc else s.pc + 2) ∧
      UnchangedExcept [.pc] s t)

/-- 5XY0 and 9XY0 skip if V[X] = V[Y], respectively V[X] ≠ V[Y], whatever the low nibble (R75, R127, R128; D9). -/
def Obligations.RegisterSkips : Prop :=
  DecodesAs 0xF000#16 0x5000#16 (fun w => .seReg (fieldX w) (fieldY w) (fieldN w)) ∧
  DecodesAs 0xF000#16 0x9000#16 (fun w => .sneReg (fieldX w) (fieldY w) (fieldN w)) ∧
  ∀ x y n (s : State),
    (∃ t, exec (.seReg x y n) s = .next t ∧ t.pc = (if s.getV x = s.getV y then s.pc + 2 else s.pc) ∧
      UnchangedExcept [.pc] s t) ∧
    (∃ t, exec (.sneReg x y n) s = .next t ∧ t.pc = (if s.getV x = s.getV y then s.pc else s.pc + 2) ∧
      UnchangedExcept [.pc] s t)

/-- BNNN sets pc to NNN + V0, not masked, with the X digit part of NNN; a target of 0xFFF or more faults at the next
fetch only (R129; D5). -/
def Obligations.JumpWithOffset : Prop :=
  DecodesAs 0xF000#16 0xB000#16 (fun w => .jpV0 (fieldNNN w)) ∧
  ∀ nnn (s : State), ∃ t, exec (.jpV0 nnn) s = .next t ∧ t.pc.toNat = nnn.toNat + (s.getV 0x0#4).toNat ∧
    UnchangedExcept [.pc] s t ∧ (0xFFF ≤ nnn.toNat + (s.getV 0x0#4).toNat → t.fetchWord = none)

/-! ### Registers and arithmetic (42_register_arith_memory) -/

/-- R150, R151: 6XNN sets V[X], 7XNN adds modulo 256; no flag is written unless VF is the destination. -/
def Obligations.ImmediateLoadAndAdd : Prop :=
  DecodesAs 0xF000#16 0x6000#16 (fun w => .ldImm (fieldX w) (fieldNN w)) ∧
  DecodesAs 0xF000#16 0x7000#16 (fun w => .addImm (fieldX w) (fieldNN w)) ∧
  ∀ x nn (s : State),
    (∃ t, exec (.ldImm x nn) s = .next t ∧ t.getV x = nn ∧ RegsUnchangedExcept [x] s t ∧
      UnchangedExcept [.v] s t) ∧
    (∃ t, exec (.addImm x nn) s = .next t ∧ (t.getV x).toNat = ((s.getV x).toNat + nn.toNat) % 256 ∧
      RegsUnchangedExcept [x] s t ∧ UnchangedExcept [.v] s t)

/-- 8XY0 to 8XY3 write V[X] with V[Y], OR, AND, XOR, bit by bit, and no flag (R152 to R155; D10). -/
def Obligations.RegisterMoveAndLogic : Prop :=
  DecodesAs 0xF00F#16 0x8000#16 (fun w => .ldReg (fieldX w) (fieldY w)) ∧
  DecodesAs 0xF00F#16 0x8001#16 (fun w => .orReg (fieldX w) (fieldY w)) ∧
  DecodesAs 0xF00F#16 0x8002#16 (fun w => .andReg (fieldX w) (fieldY w)) ∧
  DecodesAs 0xF00F#16 0x8003#16 (fun w => .xorReg (fieldX w) (fieldY w)) ∧
  ∀ x y (s : State),
    (∃ t, exec (.ldReg x y) s = .next t ∧ t.getV x = s.getV y ∧
      RegsUnchangedExcept [x] s t ∧ UnchangedExcept [.v] s t) ∧
    (∃ t, exec (.orReg x y) s = .next t ∧
      (∀ b < 8, (t.getV x).getLsbD b = ((s.getV x).getLsbD b || (s.getV y).getLsbD b)) ∧
      RegsUnchangedExcept [x] s t ∧ UnchangedExcept [.v] s t) ∧
    (∃ t, exec (.andReg x y) s = .next t ∧
      (∀ b < 8, (t.getV x).getLsbD b = ((s.getV x).getLsbD b && (s.getV y).getLsbD b)) ∧
      RegsUnchangedExcept [x] s t ∧ UnchangedExcept [.v] s t) ∧
    (∃ t, exec (.xorReg x y) s = .next t ∧
      (∀ b < 8, (t.getV x).getLsbD b = ((s.getV x).getLsbD b ^^ (s.getV y).getLsbD b)) ∧
      RegsUnchangedExcept [x] s t ∧ UnchangedExcept [.v] s t)

/-- R156: 8XY4 stores the truncated sum of the registers as they were, and VF is 1 iff the sum exceeds 255; with X = F
the sum is what VF holds. -/
def Obligations.AddSetsCarry : Prop :=
  DecodesAs 0xF00F#16 0x8004#16 (fun w => .addReg (fieldX w) (fieldY w)) ∧
  ∀ x y (s : State), ∃ t, exec (.addReg x y) s = .next t ∧
    (t.getV x).toNat = ((s.getV x).toNat + (s.getV y).toNat) % 256 ∧
    (x ≠ VF → (t.getV VF).toNat = if (s.getV x).toNat + (s.getV y).toNat > 255 then 1 else 0) ∧
    RegsUnchangedExcept [x, VF] s t ∧ UnchangedExcept [.v] s t

/-- R157: 8XY5 stores V[X] - V[Y] modulo 256, and VF is 1 iff V[X] ≥ V[Y]; with X = F the difference is what VF
holds. -/
def Obligations.SubSetsNoBorrow : Prop :=
  DecodesAs 0xF00F#16 0x8005#16 (fun w => .sub (fieldX w) (fieldY w)) ∧
  ∀ x y (s : State), ∃ t, exec (.sub x y) s = .next t ∧
    ((t.getV x).toNat : Int) = (((s.getV x).toNat : Int) - (s.getV y).toNat) % 256 ∧
    (x ≠ VF → (t.getV VF).toNat = if (s.getV x).toNat ≥ (s.getV y).toNat then 1 else 0) ∧
    RegsUnchangedExcept [x, VF] s t ∧ UnchangedExcept [.v] s t

/-- 8XY7 stores V[Y] - V[X] modulo 256 in V[X], and VF is 1 iff V[Y] ≥ V[X] (R111, R159; D10, D11). -/
def Obligations.SubnSetsNoBorrow : Prop :=
  DecodesAs 0xF00F#16 0x8007#16 (fun w => .subn (fieldX w) (fieldY w)) ∧
  ∀ x y (s : State), ∃ t, exec (.subn x y) s = .next t ∧
    ((t.getV x).toNat : Int) = (((s.getV y).toNat : Int) - (s.getV x).toNat) % 256 ∧
    (x ≠ VF → (t.getV VF).toNat = if (s.getV y).toNat ≥ (s.getV x).toNat then 1 else 0) ∧
    RegsUnchangedExcept [x, VF] s t ∧ UnchangedExcept [.v] s t

/-- R158, R160: the shifts by one of V[X], the bit shifted out in VF; V[Y] is not read. -/
def Obligations.ShiftsCaptureBitOut : Prop :=
  DecodesAs 0xF00F#16 0x8006#16 (fun w => .shr (fieldX w) (fieldY w)) ∧
  DecodesAs 0xF00F#16 0x800E#16 (fun w => .shl (fieldX w) (fieldY w)) ∧
  ∀ x y (s : State),
    (∃ t, exec (.shr x y) s = .next t ∧ (t.getV x).toNat = (s.getV x).toNat / 2 ∧
      (x ≠ VF → (t.getV VF).toNat = (s.getV x).toNat % 2) ∧
      RegsUnchangedExcept [x, VF] s t ∧ UnchangedExcept [.v] s t) ∧
    (∃ t, exec (.shl x y) s = .next t ∧ (t.getV x).toNat = (s.getV x).toNat * 2 % 256 ∧
      (x ≠ VF → (t.getV VF).toNat = (s.getV x).toNat / 128) ∧
      RegsUnchangedExcept [x, VF] s t ∧ UnchangedExcept [.v] s t)

/-- R161: ANNN sets I to NNN and nothing else. -/
def Obligations.LoadIndex : Prop :=
  DecodesAs 0xF000#16 0xA000#16 (fun w => .ldI (fieldNNN w)) ∧
  ∀ nnn s, ∃ t, exec (.ldI nnn) s = .next t ∧ t.I.toNat = nnn.toNat ∧ UnchangedExcept [.I] s t

/-- FX1E adds V[X] to I modulo 65536; FX29 sets I to 0x050 + 5·V[X], not masked; neither writes VF (R162, R163; D15,
D16). -/
def Obligations.IndexArithmetic : Prop :=
  DecodesAs 0xF0FF#16 0xF01E#16 (fun w => .addIVx (fieldX w)) ∧
  DecodesAs 0xF0FF#16 0xF029#16 (fun w => .ldFVx (fieldX w)) ∧
  ∀ x (s : State),
    (∃ t, exec (.addIVx x) s = .next t ∧ t.I.toNat = (s.I.toNat + (s.getV x).toNat) % 65536 ∧
      UnchangedExcept [.I] s t) ∧
    (∃ t, exec (.ldFVx x) s = .next t ∧ t.I.toNat = 0x050 + 5 * (s.getV x).toNat ∧ UnchangedExcept [.I] s t)

/-- With any font in place, FX29 of a digit points I at the digit's five font bytes (R163, R281; the font is the
parameter `FONT`, D20). -/
def Obligations.GlyphAddressFindsFontBytes : Prop :=
  ∀ (font : Config.Font) x (s : State), (∀ j (h : j < 80), s.readMem (0x050 + j) = font[j]) →
    ∀ h : (s.getV x).toNat ≤ 15, ∃ t, exec (.ldFVx x) s = .next t ∧
      ∀ k (hk : k < 5), t.readMem (t.dataAddr k) = font[5 * (s.getV x).toNat + k]

/-- FX33 writes the hundreds, tens and units digits of V[X] at I, I + 1, I + 2, or stops the core with memory untouched
if I + 2 > 0xFFF (R164; D3). -/
def Obligations.BcdStoresDigits : Prop :=
  DecodesAs 0xF0FF#16 0xF033#16 (fun w => .ldBVx (fieldX w)) ∧
  (∀ x (s : State), s.dataAddr 2 ≤ 0xFFF → ∃ t, exec (.ldBVx x) s = .next t ∧
    (t.readMem (s.dataAddr 0)).toNat = (s.getV x).toNat / 100 ∧
    (t.readMem (s.dataAddr 1)).toNat = (s.getV x).toNat / 10 % 10 ∧
    (t.readMem (s.dataAddr 2)).toNat = (s.getV x).toNat % 10 ∧
    (∀ a, a < s.dataAddr 0 ∨ s.dataAddr 2 < a → t.readMem a = s.readMem a) ∧ UnchangedExcept [.mem] s t) ∧
  (∀ x (s : State), 0xFFF < s.dataAddr 2 → ∃ t, exec (.ldBVx x) s = .next t ∧ StoppedBy .writeOutOfRange s t)

/-- FX55 stores V[0..=X] at I, …, I + X and leaves I, or stops the core with memory untouched if I + X > 0xFFF (R165;
D3, D14). -/
def Obligations.RegisterDump : Prop :=
  DecodesAs 0xF0FF#16 0xF055#16 (fun w => .ldMemVx (fieldX w)) ∧
  (∀ x (s : State), s.dataAddr x.toNat ≤ 0xFFF → ∃ t, exec (.ldMemVx x) s = .next t ∧
    (∀ r : Nibble, r.toNat ≤ x.toNat → t.readMem (s.dataAddr r.toNat) = s.getV r) ∧
    (∀ a, a < s.dataAddr 0 ∨ s.dataAddr x.toNat < a → t.readMem a = s.readMem a) ∧ UnchangedExcept [.mem] s t) ∧
  (∀ x (s : State), 0xFFF < s.dataAddr x.toNat → ∃ t, exec (.ldMemVx x) s = .next t ∧
    StoppedBy .writeOutOfRange s t)

/-- FX65 loads V[0..=X] from I, …, I + X and leaves I, or stops the core with the registers untouched if I + X > 0xFFF
(R166; D3, D14). -/
def Obligations.RegisterLoad : Prop :=
  DecodesAs 0xF0FF#16 0xF065#16 (fun w => .ldVxMem (fieldX w)) ∧
  (∀ x (s : State), s.dataAddr x.toNat ≤ 0xFFF → ∃ t, exec (.ldVxMem x) s = .next t ∧
    (∀ r : Nibble, t.getV r = if r.toNat ≤ x.toNat then s.readMem (s.dataAddr r.toNat) else s.getV r) ∧
    UnchangedExcept [.v] s t) ∧
  (∀ x (s : State), 0xFFF < s.dataAddr x.toNat → ∃ t, exec (.ldVxMem x) s = .next t ∧
    StoppedBy .readOutOfRange s t)

/-- A dump and a later load with the same X and I restore V[0..=X], whatever happened to the registers between
(95_test_vectors L1-7, R165, R166; D14). -/
def Obligations.DumpThenLoadRestores : Prop :=
  ∀ x (s t u : State), s.dataAddr x.toNat ≤ 0xFFF → exec (.ldMemVx x) s = .next t → u.I = s.I →
    (∀ a, u.readMem a = t.readMem a) →
    ∃ r, exec (.ldVxMem x) u = .next r ∧ ∀ j : Nibble, j.toNat ≤ x.toNat → r.getV j = s.getV j

/-- CXNN writes the drawn byte AND NN: bits where NN has 0 are 0, for every value of the free byte (R167, R179; D19; the
counter of draws is the model's own, log entry 3). -/
def Obligations.RandomByteIsMasked : Prop :=
  DecodesAs 0xF000#16 0xC000#16 (fun w => .rnd (fieldX w) (fieldNN w)) ∧
  ∀ x nn (s : State), ∃ t, exec (.rnd x nn) s = .next t ∧
    (∀ b < 8, (t.getV x).getLsbD b = ((Config.rng s.rngDraws).getLsbD b && nn.getLsbD b)) ∧
    t.rngDraws = s.rngDraws + 1 ∧ RegsUnchangedExcept [x] s t ∧ UnchangedExcept [.v, .rngDraws] s t

/-! ### Memory (20_memory) -/

/-- A byte stored by FX33, FX55, or the host's loadProgram is what the next fetch reads, the very next instruction
included; each of the two fetched bytes is the stored one where the store covers it, and the old one where it does not
(R63, R286). -/
def Obligations.StoredBytesAreFetched : Prop :=
  (∀ x (s t : State), s.dataAddr x.toNat ≤ 0xFFF → exec (.ldMemVx x) s = .next t → s.pc.toNat + 1 ≤ 0xFFF →
    ∃ b : Nat → Byte, t.fetchWord = some (wordOfBytes (b 0) (b 1)) ∧ ∀ e < 2,
      (∀ r : Nibble, r.toNat ≤ x.toNat → s.pc.toNat + e = s.dataAddr r.toNat → b e = s.getV r) ∧
      (s.pc.toNat + e < s.dataAddr 0 ∨ s.dataAddr x.toNat < s.pc.toNat + e → b e = s.readMem (s.pc.toNat + e))) ∧
  (∀ x (s t : State), s.dataAddr 2 ≤ 0xFFF → exec (.ldBVx x) s = .next t → s.pc.toNat + 1 ≤ 0xFFF →
    ∃ b : Nat → Byte, t.fetchWord = some (wordOfBytes (b 0) (b 1)) ∧ ∀ e < 2,
      (s.pc.toNat + e = s.dataAddr 0 → (b e).toNat = (s.getV x).toNat / 100) ∧
      (s.pc.toNat + e = s.dataAddr 1 → (b e).toNat = (s.getV x).toNat / 10 % 10) ∧
      (s.pc.toNat + e = s.dataAddr 2 → (b e).toNat = (s.getV x).toNat % 10) ∧
      (s.pc.toNat + e < s.dataAddr 0 ∨ s.dataAddr 2 < s.pc.toNat + e → b e = s.readMem (s.pc.toNat + e))) ∧
  (∀ bytes (s t : State), loadProgram bytes s = .next t → s.pc.toNat + 1 ≤ 0xFFF →
    ∃ b : Nat → Byte, t.fetchWord = some (wordOfBytes (b 0) (b 1)) ∧ ∀ e < 2,
      (∀ j (h : j < bytes.length), s.pc.toNat + e = 0x200 + j → b e = bytes[j]) ∧
      (s.pc.toNat + e < 0x200 ∨ 0x200 + bytes.length ≤ s.pc.toNat + e → b e = s.readMem (s.pc.toNat + e)))

/-! ### Display (43_display) -/

/-- DXYN in range XORs each sprite bit into its cell, leaves every other cell, sets VF to 1 exactly if a 1 bit met a 1
cell, and sets drawFlag (R200 to R203; D12, D13). Coordinates are the registers as they were, VF included (R111; D11). -/
def Obligations.DrawTogglesSprite : Prop :=
  DecodesAs 0xF000#16 0xD000#16 (fun w => .drw (fieldX w) (fieldY w) (fieldN w)) ∧
  ∀ x y n (s : State), (∀ r < n.toNat, s.dataAddr r ≤ 0xFFF) →
    (∀ r < n.toNat, ∀ c < 8, ((s.getV y).toNat + r) * 64 + ((s.getV x).toNat + c) < 2048) →
    ∃ t, exec (.drw x y n) s = .next t ∧
      (∀ r < n.toNat, ∀ c < 8, pixel t.graphic (((s.getV y).toNat + r) * 64 + ((s.getV x).toNat + c)) =
        (pixel s.graphic (((s.getV y).toNat + r) * 64 + ((s.getV x).toNat + c)) ^^
          (s.readMem (s.dataAddr r)).getLsbD (7 - c))) ∧
      (∀ k, (∀ r < n.toNat, ∀ c < 8, k ≠ ((s.getV y).toNat + r) * 64 + ((s.getV x).toNat + c)) →
        pixel t.graphic k = pixel s.graphic k) ∧
      ((∃ r < n.toNat, ∃ c < 8, pixel s.graphic (((s.getV y).toNat + r) * 64 + ((s.getV x).toNat + c)) = true ∧
        (s.readMem (s.dataAddr r)).getLsbD (7 - c) = true) → t.getV VF = 1#8) ∧
      ((¬ ∃ r < n.toNat, ∃ c < 8, pixel s.graphic (((s.getV y).toNat + r) * 64 + ((s.getV x).toNat + c)) = true ∧
        (s.readMem (s.dataAddr r)).getLsbD (7 - c) = true) → t.getV VF = 0#8) ∧
      t.drawFlag = true ∧ RegsUnchangedExcept [VF] s t ∧ UnchangedExcept [.v, .graphic, .drawFlag] s t

/-- When DXYN stops the core, in closed form: READ if a sprite byte is above 0xFFF, else FRAMEBUFFER if the last cell of
the box is 2048 or more, else it completes; with N = 0 it always completes (R200, R202, R244; D3, D13, D23). -/
def Obligations.DrawFaultsInOrder : Prop :=
  ∀ x y n (s : State),
    (0 < n.toNat → 0xFFF < s.dataAddr (n.toNat - 1) →
      ∃ t, exec (.drw x y n) s = .next t ∧ StoppedBy .readOutOfRange s t) ∧
    (0 < n.toNat → s.dataAddr (n.toNat - 1) ≤ 0xFFF →
      2048 ≤ ((s.getV y).toNat + n.toNat - 1) * 64 + (s.getV x).toNat + 7 →
      ∃ t, exec (.drw x y n) s = .next t ∧ StoppedBy .framebufferOutOfRange s t) ∧
    (0 < n.toNat → s.dataAddr (n.toNat - 1) ≤ 0xFFF →
      ((s.getV y).toNat + n.toNat - 1) * 64 + (s.getV x).toNat + 7 < 2048 →
      ∃ t, exec (.drw x y n) s = .next t ∧ t.drawFlag = true ∧ t.status = s.status) ∧
    (n.toNat = 0 → ∃ t, exec (.drw x y n) s = .next t ∧ t.getV VF = 0#8 ∧ t.drawFlag = true ∧
      RegsUnchangedExcept [VF] s t ∧ UnchangedExcept [.v, .drawFlag] s t)

/-- Drawing the same sprite twice brings every cell back, if neither coordinate register is VF (R200, R204; D13). -/
def Obligations.DrawTwiceErases : Prop :=
  ∀ x y n (s t : State), x ≠ VF → y ≠ VF → (∀ r < n.toNat, s.dataAddr r ≤ 0xFFF) →
    (∀ r < n.toNat, ∀ c < 8, ((s.getV y).toNat + r) * 64 + ((s.getV x).toNat + c) < 2048) →
    exec (.drw x y n) s = .next t →
    ∃ u, exec (.drw x y n) t = .next u ∧ ∀ k, pixel u.graphic k = pixel s.graphic k

/-! ### Input and timers (44_input_timer) -/

/-- EX9E and EXA1 skip if key V[X] is pressed, respectively not pressed; a V[X] above 15 stops the core (R220, R221;
D17). -/
def Obligations.KeySkips : Prop :=
  DecodesAs 0xF0FF#16 0xE09E#16 (fun w => .skp (fieldX w)) ∧
  DecodesAs 0xF0FF#16 0xE0A1#16 (fun w => .sknp (fieldX w)) ∧
  (∀ x (s : State), (s.getV x).toNat ≤ 15 →
    (∃ t, exec (.skp x) s = .next t ∧
      t.pc = (if s.keyDown (s.getV x).toNat = true then s.pc + 2 else s.pc) ∧ UnchangedExcept [.pc] s t) ∧
    (∃ t, exec (.sknp x) s = .next t ∧
      t.pc = (if s.keyDown (s.getV x).toNat = true then s.pc else s.pc + 2) ∧ UnchangedExcept [.pc] s t)) ∧
  (∀ x (s : State), 15 < (s.getV x).toNat →
    (∃ t, exec (.skp x) s = .next t ∧ StoppedBy .keyIndexOutOfRange s t) ∧
    (∃ t, exec (.sknp x) s = .next t ∧ StoppedBy .keyIndexOutOfRange s t))

/-- R222: FX0A stores the lowest pressed key's index; with no key pressed it rewinds pc by 2, and its whole cycle leaves
pc, clears drawFlag, decays the timers, changes nothing else, and comes to the same FX0A again. -/
def Obligations.KeyWaitBlocksOrStores : Prop :=
  DecodesAs 0xF0FF#16 0xF00A#16 (fun w => .ldVxK (fieldX w)) ∧
  (∀ x (s : State) k, k < 16 → s.keyDown k = true → (∀ j < k, s.keyDown j = false) →
    ∃ t, exec (.ldVxK x) s = .next t ∧ (t.getV x).toNat = k ∧ RegsUnchangedExcept [x] s t ∧
      UnchangedExcept [.v] s t) ∧
  (∀ x (s : State), (∀ k < 16, s.keyDown k = false) →
    ∃ t, exec (.ldVxK x) s = .next t ∧ t.pc = s.pc - 2 ∧ UnchangedExcept [.pc] s t) ∧
  (∀ x (s : State), NextInstr s (.ldVxK x) → (∀ k < 16, s.keyDown k = false) →
    ∃ t, step s = .next t ∧ t.drawFlag = false ∧ Decays s t ∧ NextInstr t (.ldVxK x) ∧
      UnchangedExcept [.opcode, .drawFlag, .cycleCounter, .delayTimer, .soundTimer] s t)

/-- R223, R224, R225: FX07 reads the delay timer as this cycle's decay left it; FX15 and FX18 write V[X] to a timer,
undecayed in this cycle; the sound is active exactly if the value written is not 0. -/
def Obligations.TimerTransfers : Prop :=
  DecodesAs 0xF0FF#16 0xF007#16 (fun w => .ldVxDt (fieldX w)) ∧
  DecodesAs 0xF0FF#16 0xF015#16 (fun w => .ldDtVx (fieldX w)) ∧
  DecodesAs 0xF0FF#16 0xF018#16 (fun w => .ldStVx (fieldX w)) ∧
  (∀ x (s : State),
    (∃ t, exec (.ldVxDt x) s = .next t ∧ t.getV x = s.delayTimer ∧ RegsUnchangedExcept [x] s t ∧
      UnchangedExcept [.v] s t) ∧
    (∃ t, exec (.ldDtVx x) s = .next t ∧ t.delayTimer = s.getV x ∧ UnchangedExcept [.delayTimer] s t) ∧
    (∃ t, exec (.ldStVx x) s = .next t ∧ t.soundTimer = s.getV x ∧
      (t.soundActive = true ↔ s.getV x ≠ 0#8) ∧ UnchangedExcept [.soundTimer] s t)) ∧
  (∀ x (s : State), NextInstr s (.ldVxDt x) → ∃ t, step s = .next t ∧
    (t.getV x).toNat = s.delayTimer.toNat - (if s.cycleCounter.toNat = 7 then 1 else 0)) ∧
  (∀ x (s : State), NextInstr s (.ldDtVx x) → ∃ t, step s = .next t ∧ t.delayTimer = s.getV x ∧
    t.cycleCounter.toNat = (s.cycleCounter.toNat + 1) % 8) ∧
  (∀ x (s : State), NextInstr s (.ldStVx x) → ∃ t, step s = .next t ∧ t.soundTimer = s.getV x ∧
    t.cycleCounter.toNat = (s.cycleCounter.toNat + 1) % 8)

/-! ### Reset and the host interface (60_exceptions, 70_reset_and_hazards) -/

/-- `initialize` from any state, with any font: every field at its reset value, the font installed, the random source
not reset; with the default font, reset is its own image (R280, R281, R179; D19, D20, D30; log entries 2 and 3). -/
def Obligations.InitializeResetsEverything : Prop :=
  (∀ (font : Config.Font) (s : State), let t := initializeCore font s
    (∀ r, t.getV r = 0#8) ∧ t.pc = 0x200#16 ∧ t.I = 0#16 ∧ (∀ j (h : j < 16), t.stack[j] = 0#16) ∧ t.sp.val = 0 ∧
    t.delayTimer = 0#8 ∧ t.soundTimer = 0#8 ∧
    (∀ j (h : j < 80), t.readMem (0x050 + j) = font[j]) ∧
    (∀ a, a < 0x050 ∨ 0x0A0 ≤ a → t.readMem a = 0#8) ∧
    (∀ k, pixel t.graphic k = false) ∧ (∀ k, t.keyDown k = false) ∧ t.opcode = 0#16 ∧ t.drawFlag = false ∧
    t.cycleCounter = 0#3 ∧ t.status = .running ∧ t.rngDraws = s.rngDraws) ∧
  initializeCore Config.defaultFont State.reset = State.reset

/-- `loadProgram` copies the bytes to 0x200 on and changes nothing else; more than 0xE00 bytes are refused with no change
(R282; D7). -/
def Obligations.LoadProgramCopiesOrRefuses : Prop :=
  (∀ bytes (s : State), bytes.length ≤ 0xE00 → ∃ t, loadProgram bytes s = .next t ∧
    (∀ k (h : k < bytes.length), t.readMem (0x200 + k) = bytes[k]) ∧
    (∀ a, a < 0x200 ∨ 0x200 + bytes.length ≤ a → t.readMem a = s.readMem a) ∧ UnchangedExcept [.mem] s t) ∧
  (∀ bytes (s : State), 0xE00 < bytes.length → loadProgram bytes s = .refused .loadError)

/-- `loadKey` replaces all sixteen flags, whatever they were, and changes nothing else; a value other than 0 and 1 is
refused (R250; D24). -/
def Obligations.LoadKeyReplacesFlags : Prop :=
  (∀ (keys : Vector Byte 16) (s : State), (∀ k (h : k < 16), keys[k] = 0#8 ∨ keys[k] = 1#8) →
    ∃ t, loadKey keys s = .next t ∧ (∀ k (h : k < 16), t.keyDown k = true ↔ keys[k] = 1#8) ∧
      UnchangedExcept [.key] s t) ∧
  (∀ (keys : Vector Byte 16) (s : State), (∃ k, ∃ h : k < 16, keys[k] ≠ 0#8 ∧ keys[k] ≠ 1#8) →
    loadKey keys s = .refused .keyValue)

/-- R249, R251: the sound level is `sound_timer > 0`; loadScreen gives each cell as a byte 0 or 1, row-major, and
changes no state. Beside them, the debug snapshot gives pc, opcode, the sixteen V registers, I and both timers, the read
of drawFlag gives drawFlag, and neither changes state. -/
def Obligations.HostReadsScreenAndSound : Prop :=
  ∀ s : State, hostMove .loadScreen s = .next s ∧ hostReply .loadScreen s = .screen s.screenBytes ∧
    (∀ k (h : k < 2048), s.screenBytes[k] = if pixel s.graphic k = true then 1#8 else 0#8) ∧
    hostReply .soundLevel s = .sound (decide (0 < s.soundTimer.toNat)) ∧ hostMove .soundLevel s = .next s ∧
    (∃ p : Snapshot, hostReply .snapshot s = .registers p ∧ p.pc = s.pc ∧ p.opcode = s.opcode ∧
      (∀ r : Nibble, p.v[r.toNat] = s.getV r) ∧ p.I = s.I ∧ p.delayTimer = s.delayTimer ∧ p.soundTimer = s.soundTimer) ∧
    hostMove .snapshot s = .next s ∧
    hostReply .readDrawFlag s = .flag s.drawFlag ∧ hostMove .readDrawFlag s = .next s

/-- The host changes keys only by loadKey and memory only by initialize and loadProgram, and no host call but these and
doCycle changes a register, pc, a timer, the stack or the framebuffer; reads and the flag's clear are seen by no later
cycle that fetches (R253, R254, R256; D29). -/
def Obligations.HostLeavesCoreAlone : Prop :=
  (∀ (op : HostOp) (s t : State), (∀ font, op ≠ .initializeCore font) → op ≠ .doCycle → hostMove op s = .next t →
    UnchangedExcept [.mem, .key, .drawFlag] s t ∧
    ((∀ bytes, op ≠ .loadProgram bytes) → ∀ a, t.readMem a = s.readMem a) ∧
    ((∀ keys, op ≠ .loadKey keys) → ∀ k, t.keyDown k = s.keyDown k) ∧
    (op ≠ .clearDrawFlag → t.drawFlag = s.drawFlag)) ∧
  (∀ s : State, s.status = .running → s.fetchWord ≠ none → step (clearDrawFlag s) = step s)

/-- From a faulted core, a host operation that is not refused leaves it faulted, except initialize, which makes it run
again; so a run that has faulted keeps that status, and its program does not end, as long as the host does not initialize
(R243, R246, R258, R280; D26, D27, D30). -/
def Obligations.OnlyInitializeLeavesFaulted : Prop :=
  (∀ (op : HostOp) (s t : State), s.status ≠ .running → hostMove op s = .next t →
    (t.status = .running ↔ ∃ font, op = .initializeCore font)) ∧
  (∀ (r : Run) (k : Nat), (r.state k).status ≠ .running → r.MovesFrom k (fun op => ∀ font, op ≠ .initializeCore font) →
    ∀ j ≥ k, (r.state j).status = (r.state k).status ∧ ¬ r.EndsAt j)

/-- Before the first `initialize` there is no state: every other host call is refused, and `initialize` with the default
font makes the reset state. From then on the calls are those of a core with state (R283, R284; D25; log entry 6). -/
def Obligations.NothingRunsBeforeInitialize : Prop :=
  (∀ op : HostOp, (∀ font, op ≠ .initializeCore font) → sessionMove op none = .refused .notInitialized) ∧
  (∀ font : Config.Font, sessionMove (.initializeCore font) none = .next (initializeCore font State.reset)) ∧
  sessionMove (.initializeCore Config.defaultFont) none = .next State.reset ∧
  (∀ (op : HostOp) (s : State), sessionMove op (some s) = hostMove op s)
end

