-- ==== Sys2Proof/Laws/Decode.lean ====
section
/-! SUPPORT. The fields and formats of an instruction word as numbers, a word from its fields, a format's fields, and
masks as fields. -/

namespace Sys2Proof

/-! ### Fields as numbers (30_encoding R71) -/

section
variable (op : Word)

theorem toNat_family : (family op).toNat = op.toNat / 4096 % 16 := by
  simp [family, BitVec.extractLsb'_toNat, Nat.shiftRight_eq_div_pow]

theorem toNat_fieldX : (fieldX op).toNat = op.toNat / 256 % 16 := by
  simp [fieldX, BitVec.extractLsb'_toNat, Nat.shiftRight_eq_div_pow]

theorem toNat_fieldY : (fieldY op).toNat = op.toNat / 16 % 16 := by
  simp [fieldY, BitVec.extractLsb'_toNat, Nat.shiftRight_eq_div_pow]

theorem toNat_fieldN : (fieldN op).toNat = op.toNat % 16 := by
  simp [fieldN, BitVec.extractLsb'_toNat]

theorem toNat_fieldNN : (fieldNN op).toNat = op.toNat % 256 := by
  simp [fieldNN, BitVec.extractLsb'_toNat]

theorem toNat_fieldNNN : (fieldNNN op).toNat = op.toNat % 4096 := by
  simp [fieldNNN, BitVec.extractLsb'_toNat]

theorem toNat_hiByte : (hiByte op).toNat = op.toNat / 256 := by
  have := op.isLt
  simp [hiByte, BitVec.extractLsb'_toNat, Nat.shiftRight_eq_div_pow]
  omega

theorem toNat_loByte : (loByte op).toNat = op.toNat % 256 := by
  simp [loByte, BitVec.extractLsb'_toNat]
end

theorem toNat_append {m n : Nat} (a : BitVec m) (b : BitVec n) : (a ++ b).toNat = a.toNat * 2 ^ n + b.toNat := by
  rw [BitVec.toNat_append, ← Nat.shiftLeft_add_eq_or_of_lt b.isLt, Nat.shiftLeft_eq]

/-! ### Formats as numbers (R73) -/

section
variable (f x y n : Nibble) (nn hi lo : Byte) (nnn : Addr12)

theorem toNat_formatA : (formatA f nnn).toNat = f.toNat * 4096 + nnn.toNat := toNat_append f nnn

theorem toNat_formatXNN : (formatXNN f x nn).toNat = f.toNat * 4096 + x.toNat * 256 + nn.toNat := by
  have h : (formatXNN f x nn).toNat = f.toNat * 2 ^ 12 + (x ++ nn).toNat := toNat_append f (x ++ nn)
  rw [h, toNat_append]
  omega

theorem toNat_formatXYN :
    (formatXYN f x y n).toNat = f.toNat * 4096 + x.toNat * 256 + y.toNat * 16 + n.toNat := by
  have h : (formatXYN f x y n).toNat = f.toNat * 2 ^ 12 + (x ++ (y ++ n)).toNat := toNat_append f (x ++ (y ++ n))
  have h' : (x ++ (y ++ n)).toNat = x.toNat * 2 ^ 8 + (y ++ n).toNat := toNat_append x (y ++ n)
  rw [h, h', toNat_append]
  omega

theorem toNat_wordOfBytes : (wordOfBytes hi lo).toNat = hi.toNat * 256 + lo.toNat := toNat_append hi lo

/-! ### The fields of a format -/

@[simp] theorem family_formatA : family (formatA f nnn) = f := by
  apply BitVec.eq_of_toNat_eq
  have := f.isLt
  have := nnn.isLt
  rw [toNat_family, toNat_formatA]
  omega

@[simp] theorem fieldNNN_formatA : fieldNNN (formatA f nnn) = nnn := by
  apply BitVec.eq_of_toNat_eq
  have := f.isLt
  have := nnn.isLt
  rw [toNat_fieldNNN, toNat_formatA]
  omega

@[simp] theorem family_formatXNN : family (formatXNN f x nn) = f := by
  apply BitVec.eq_of_toNat_eq
  have := f.isLt
  have := x.isLt
  have := nn.isLt
  rw [toNat_family, toNat_formatXNN]
  omega

@[simp] theorem fieldX_formatXNN : fieldX (formatXNN f x nn) = x := by
  apply BitVec.eq_of_toNat_eq
  have := x.isLt
  have := nn.isLt
  rw [toNat_fieldX, toNat_formatXNN]
  omega

@[simp] theorem fieldNN_formatXNN : fieldNN (formatXNN f x nn) = nn := by
  apply BitVec.eq_of_toNat_eq
  have := nn.isLt
  rw [toNat_fieldNN, toNat_formatXNN]
  omega

@[simp] theorem family_formatXYN : family (formatXYN f x y n) = f := by
  apply BitVec.eq_of_toNat_eq
  have := f.isLt
  have := x.isLt
  have := y.isLt
  have := n.isLt
  rw [toNat_family, toNat_formatXYN]
  omega

@[simp] theorem fieldX_formatXYN : fieldX (formatXYN f x y n) = x := by
  apply BitVec.eq_of_toNat_eq
  have := x.isLt
  have := y.isLt
  have := n.isLt
  rw [toNat_fieldX, toNat_formatXYN]
  omega

@[simp] theorem fieldY_formatXYN : fieldY (formatXYN f x y n) = y := by
  apply BitVec.eq_of_toNat_eq
  have := y.isLt
  have := n.isLt
  rw [toNat_fieldY, toNat_formatXYN]
  omega

@[simp] theorem fieldN_formatXYN : fieldN (formatXYN f x y n) = n := by
  apply BitVec.eq_of_toNat_eq
  have := n.isLt
  rw [toNat_fieldN, toNat_formatXYN]
  omega
end

/-! ### A word from its fields -/

section
variable (op : Word)

theorem formatA_fields : formatA (family op) (fieldNNN op) = op := by
  apply BitVec.eq_of_toNat_eq
  have := op.isLt
  rw [toNat_formatA, toNat_family, toNat_fieldNNN]
  omega

theorem formatXNN_fields : formatXNN (family op) (fieldX op) (fieldNN op) = op := by
  apply BitVec.eq_of_toNat_eq
  have := op.isLt
  rw [toNat_formatXNN, toNat_family, toNat_fieldX, toNat_fieldNN]
  omega

theorem formatXYN_fields : formatXYN (family op) (fieldX op) (fieldY op) (fieldN op) = op := by
  apply BitVec.eq_of_toNat_eq
  have := op.isLt
  rw [toNat_formatXYN, toNat_family, toNat_fieldX, toNat_fieldY, toNat_fieldN]
  omega

/-- The bytes of a word, read back big-endian (20_memory R54). -/
@[simp] theorem wordOfBytes_bytes : wordOfBytes (hiByte op) (loByte op) = op := by
  apply BitVec.eq_of_toNat_eq
  rw [toNat_wordOfBytes, toNat_hiByte, toNat_loByte]
  omega
end

/-! ### Masks as fields -/

theorem extract_and (a b : Word) (k n : Nat) : (a &&& b).extractLsb' k n = a.extractLsb' k n &&& b.extractLsb' k n := by
  ext i hi
  simp

/-- A word that agrees with `mtch` under the family's mask has its family nibble. -/
theorem family_of_mask {op mtch : Word} (h : op &&& 0xF000#16 = mtch) : family op = family mtch := by
  subst h
  show op.extractLsb' 12 4 = (op &&& 0xF000#16).extractLsb' 12 4
  rw [extract_and]
  exact (BitVec.and_allOnes (x := op.extractLsb' 12 4)).symm

/-- A word that agrees with `mtch` under 0xF00F has its family nibble and its low nibble. -/
theorem fields_of_mask_F00F {op mtch : Word} (h : op &&& 0xF00F#16 = mtch) :
    family op = family mtch ∧ fieldN op = fieldN mtch := by
  subst h
  constructor
  · show op.extractLsb' 12 4 = (op &&& 0xF00F#16).extractLsb' 12 4
    rw [extract_and]
    exact (BitVec.and_allOnes (x := op.extractLsb' 12 4)).symm
  · show op.extractLsb' 0 4 = (op &&& 0xF00F#16).extractLsb' 0 4
    rw [extract_and]
    exact (BitVec.and_allOnes (x := op.extractLsb' 0 4)).symm

/-- A word that agrees with `mtch` under 0xF0FF has its family nibble and its low byte. -/
theorem fields_of_mask_F0FF {op mtch : Word} (h : op &&& 0xF0FF#16 = mtch) :
    family op = family mtch ∧ fieldNN op = fieldNN mtch := by
  subst h
  constructor
  · show op.extractLsb' 12 4 = (op &&& 0xF0FF#16).extractLsb' 12 4
    rw [extract_and]
    exact (BitVec.and_allOnes (x := op.extractLsb' 12 4)).symm
  · show op.extractLsb' 0 8 = (op &&& 0xF0FF#16).extractLsb' 0 8
    rw [extract_and]
    exact (BitVec.and_allOnes (x := op.extractLsb' 0 8)).symm

/-- The sixteen families: a nibble that is none of 0x0 to 0xE is 0xF. -/
theorem nibble_eq_F {f : Nibble} (h : ∀ k : Nat, k < 15 → f ≠ BitVec.ofNat 4 k) : f = 0xF#4 := by
  apply BitVec.eq_of_toNat_eq
  have hf := f.isLt
  by_contra hne
  have hlt : f.toNat < 15 := by
    simp at hne
    omega
  exact h f.toNat hlt (by simp)

end Sys2Proof
end

