-- ==== Sys2Proof/Laws/Memory.lean ====
section
/-! SUPPORT. The laws of memory: read after write, and that every operation keeps the canonical form. -/

namespace Sys2Proof.Machine

@[simp] theorem Memory.read_nil (a : Nat) : Memory.read [] a = resetByte a := rfl

theorem Memory.read_cons (c : Host.Cell) (m : Memory) (a : Nat) :
    Memory.read (c :: m) a = if c.1 = a then c.2 else Memory.read m a := rfl

/-- An address without an entry holds its reset byte. -/
theorem Memory.read_of_not_listed (m : Memory) (a : Nat) (h : ∀ c ∈ m, c.1 ≠ a) : Memory.read m a = resetByte a := by
  induction m with
  | nil => rfl
  | cons c m ih =>
    rw [Memory.read_cons, if_neg (h c (by simp)), ih fun d hd => h d (by simp [hd])]

theorem Memory.read_filter_ne (m : Memory) {a a' : Nat} (h : a' ≠ a) :
    Memory.read (m.filter fun c => c.1 != a) a' = Memory.read m a' := by
  induction m with
  | nil => rfl
  | cons c m ih =>
    by_cases hc : c.1 = a
    · simp [hc, ih, Memory.read_cons, h.symm]
    · simp [hc, ih, Memory.read_cons]

theorem Memory.read_insertCell (m : Memory) (a : Nat) (b : Byte) (a' : Nat) (hm : ∀ c ∈ m, c.1 ≠ a) :
    Memory.read (Memory.insertCell m a b) a' = if a' = a then b else Memory.read m a' := by
  induction m with
  | nil => simp [Memory.insertCell, Memory.read_cons, eq_comm]
  | cons c m ih =>
    have hc : c.1 ≠ a := hm c (by simp)
    have ih := ih fun d hd => hm d (by simp [hd])
    unfold Memory.insertCell
    split
    · by_cases h : a' = a
      · subst h; simp [Memory.read_cons, hc, ih]
      · simp [Memory.read_cons, ih, h]
    · by_cases h : a' = a
      · subst h; simp [Memory.read_cons]
      · simp [Memory.read_cons, h, Ne.symm h]

/-- Read after write (20_memory R60), for every list of cells, canonical or not. -/
theorem Memory.read_write (m : Memory) (a : Nat) (b : Byte) (a' : Nat) :
    Memory.read (Memory.write m a b) a' = if a' = a then b else Memory.read m a' := by
  have hm : ∀ c ∈ m.filter (fun c => c.1 != a), c.1 ≠ a := by simp
  unfold Memory.write
  split
  · rename_i hb
    by_cases h : a' = a
    · subst h; simp [Memory.read_of_not_listed _ _ hm, hb]
    · simp [h, Memory.read_filter_ne]
  · rw [Memory.read_insertCell _ _ _ _ hm]
    by_cases h : a' = a
    · simp [h]
    · simp [h, Memory.read_filter_ne]

/-- A list of bytes is read back where it was written, and nothing else changes. -/
theorem Memory.read_writeList (m : Memory) (a : Nat) (bs : List Byte) (a' : Nat) :
    Memory.read (Memory.writeList m a bs) a' =
      if h : a ≤ a' ∧ a' - a < bs.length then bs[a' - a]'h.2 else Memory.read m a' := by
  induction bs generalizing m a with
  | nil => simp [Memory.writeList]
  | cons b bs ih =>
    rw [Memory.writeList, ih, Memory.read_write]
    by_cases h : a' = a
    · subst h; simp
    · by_cases h1 : a + 1 ≤ a' ∧ a' - (a + 1) < bs.length
      · obtain ⟨k, rfl⟩ : ∃ k, a' = a + 1 + k := ⟨a' - (a + 1), by omega⟩
        have hk : a + 1 + k - a = k + 1 := by omega
        have hk' : k < bs.length := by simpa using h1.2
        simp [hk, hk', show a ≤ a + 1 + k by omega]
      · rw [dif_neg h1, if_neg h, dif_neg (by simp only [List.length_cons]; omega)]

/-! ### The canonical form -/

theorem Memory.wf_nil : Memory.wf [] := ⟨.nil, by simp⟩

theorem Memory.mem_insertCell {m : Memory} {a : Nat} {b : Byte} {c : Host.Cell} :
    c ∈ Memory.insertCell m a b ↔ c = (a, b) ∨ c ∈ m := by
  induction m with
  | nil => simp [Memory.insertCell]
  | cons d m ih =>
    unfold Memory.insertCell
    split
    · simp only [List.mem_cons, ih]; tauto
    · simp only [List.mem_cons]

theorem Memory.pairwise_insertCell {m : Memory} (a : Nat) (b : Byte) (hm : m.Pairwise (fun c d => c.1 < d.1))
    (ha : ∀ c ∈ m, c.1 ≠ a) : (Memory.insertCell m a b).Pairwise (fun c d => c.1 < d.1) := by
  induction m with
  | nil => simp [Memory.insertCell]
  | cons c m ih =>
    rw [List.pairwise_cons] at hm
    have hc : c.1 ≠ a := ha c (by simp)
    unfold Memory.insertCell
    split
    · rename_i hlt
      refine List.pairwise_cons.2 ⟨fun d hd => ?_, ih hm.2 fun d hd => ha d (by simp [hd])⟩
      rcases Memory.mem_insertCell.1 hd with rfl | hd
      · exact hlt
      · exact hm.1 d hd
    · rename_i hlt
      refine List.pairwise_cons.2 ⟨fun d hd => ?_, List.pairwise_cons.2 hm⟩
      rcases List.mem_cons.1 hd with rfl | hd
      · show a < d.1
        omega
      · have := hm.1 d hd
        show a < d.1
        omega

/-- Writing a byte at an address of the machine keeps the canonical form. -/
theorem Memory.wf_write {m : Memory} {a : Nat} (b : Byte) (hm : Memory.wf m) (ha : a < Config.memSize) :
    Memory.wf (Memory.write m a b) := by
  have hf : Memory.wf (m.filter fun c => c.1 != a) :=
    ⟨hm.1.filter _, fun c hc => hm.2 c (List.mem_filter.1 hc).1⟩
  unfold Memory.write
  split
  · exact hf
  · rename_i hb
    refine ⟨Memory.pairwise_insertCell a b hf.1 (by simp), fun c hc => ?_⟩
    rcases Memory.mem_insertCell.1 hc with rfl | hc
    · exact ⟨ha, hb⟩
    · exact hf.2 c hc

/-- Writing a list of bytes inside the machine's addresses keeps the canonical form. -/
theorem Memory.wf_writeList {m : Memory} {a : Nat} (bs : List Byte) (hm : Memory.wf m)
    (ha : a + bs.length ≤ Config.memSize) : Memory.wf (Memory.writeList m a bs) := by
  induction bs generalizing m a with
  | nil => exact hm
  | cons b bs ih =>
    simp only [List.length_cons] at ha
    exact ih (Memory.wf_write b hm (by omega)) (by omega)

/-- Canonical memories that read alike are equal. -/
theorem Memory.eq_of_read_eq {m m' : Memory} (hm : Memory.wf m) (hm' : Memory.wf m')
    (h : ∀ a, Memory.read m a = Memory.read m' a) : m = m' := by
  induction m generalizing m' with
  | nil =>
    cases m' with
    | nil => rfl
    | cons c m' =>
      have := h c.1
      simp only [Memory.read_nil, Memory.read_cons, if_true] at this
      exact absurd this.symm (hm'.2 c (by simp)).2
  | cons c m ih =>
    have low {m : Memory} {c : Host.Cell} (hc : Memory.wf (c :: m)) {a : Nat} (ha : a < c.1) :
        Memory.read (c :: m) a = resetByte a := by
      refine Memory.read_of_not_listed _ _ fun d hd => ?_
      rcases List.mem_cons.1 hd with rfl | hd
      · omega
      · have := (List.pairwise_cons.1 hc.1).1 d hd
        omega
    have tail {m : Memory} {c : Host.Cell} (hc : Memory.wf (c :: m)) : Memory.wf m :=
      ⟨(List.pairwise_cons.1 hc.1).2, fun d hd => hc.2 d (by simp [hd])⟩
    have after {m : Memory} {c : Host.Cell} (hc : Memory.wf (c :: m)) : Memory.read m c.1 = resetByte c.1 :=
      Memory.read_of_not_listed _ _ fun d hd => by
        have := (List.pairwise_cons.1 hc.1).1 d hd
        omega
    cases m' with
    | nil =>
      have := h c.1
      simp only [Memory.read_nil, Memory.read_cons, if_true] at this
      exact absurd this (hm.2 c (by simp)).2
    | cons d m' =>
      have hcd : c.1 = d.1 := by
        rcases Nat.lt_trichotomy c.1 d.1 with hlt | heq | hgt
        · have := h c.1
          rw [low hm' hlt, Memory.read_cons, if_pos rfl] at this
          exact absurd this (hm.2 c (by simp)).2
        · exact heq
        · have := h d.1
          rw [low hm hgt, Memory.read_cons, if_pos rfl] at this
          exact absurd this.symm (hm'.2 d (by simp)).2
      have hval : c.2 = d.2 := by
        have := h c.1
        rwa [Memory.read_cons, if_pos rfl, Memory.read_cons, if_pos hcd.symm] at this
      have heq : c = d := Prod.ext hcd hval
      subst heq
      congr 1
      refine ih (tail hm) (tail hm') fun a => ?_
      by_cases ha : c.1 = a
      · subst ha; rw [after hm, after hm']
      · have := h a
        rwa [Memory.read_cons, if_neg ha, Memory.read_cons, if_neg ha] at this

/-! ### Ranges -/

/-- The range check in closed form: an empty access, or the last address is at most 0xFFF (R53). -/
theorem spanInRange_iff (base len : Nat) :
    spanInRange base len = true ↔ len = 0 ∨ base + len ≤ 4096 := by
  simp only [spanInRange, List.all_eq_true, List.mem_range, decide_eq_true_eq, Config.memSize]
  constructor
  · intro h
    rcases Nat.eq_zero_or_pos len with h0 | h0
    · exact .inl h0
    · have := h (len - 1) (by omega)
      omega
  · rintro (h | h) k hk <;> omega

end Sys2Proof.Machine
end

