-- ==== Sys2Proof/Laws/State.lean ====
section
/-! SUPPORT. One lemma per field per update of the state, each true by rfl, and the accessors seen through the
updates, so that no proof unfolds a record update. -/

namespace Sys2Proof.Machine

section
variable (s : State) (v : Vector Byte 16)
@[simp] theorem setRegs_v : (s.setRegs v).v = v := rfl
@[simp] theorem setRegs_pc : (s.setRegs v).pc = s.pc := rfl
@[simp] theorem setRegs_I : (s.setRegs v).I = s.I := rfl
@[simp] theorem setRegs_stack : (s.setRegs v).stack = s.stack := rfl
@[simp] theorem setRegs_sp : (s.setRegs v).sp = s.sp := rfl
@[simp] theorem setRegs_delayTimer : (s.setRegs v).delayTimer = s.delayTimer := rfl
@[simp] theorem setRegs_soundTimer : (s.setRegs v).soundTimer = s.soundTimer := rfl
@[simp] theorem setRegs_mem : (s.setRegs v).mem = s.mem := rfl
@[simp] theorem setRegs_graphic : (s.setRegs v).graphic = s.graphic := rfl
@[simp] theorem setRegs_key : (s.setRegs v).key = s.key := rfl
@[simp] theorem setRegs_opcode : (s.setRegs v).opcode = s.opcode := rfl
@[simp] theorem setRegs_drawFlag : (s.setRegs v).drawFlag = s.drawFlag := rfl
@[simp] theorem setRegs_cycleCounter : (s.setRegs v).cycleCounter = s.cycleCounter := rfl
@[simp] theorem setRegs_status : (s.setRegs v).status = s.status := rfl
@[simp] theorem setRegs_rngDraws : (s.setRegs v).rngDraws = s.rngDraws := rfl
@[simp] theorem setRegs_readMem (r : Nat) : (s.setRegs v).readMem r = s.readMem r := rfl
@[simp] theorem setRegs_keyDown (r : Nat) : (s.setRegs v).keyDown r = s.keyDown r := rfl
@[simp] theorem setRegs_firstKey : (s.setRegs v).firstKey = s.firstKey := rfl
@[simp] theorem setRegs_dataAddr (r : Nat) : (s.setRegs v).dataAddr r = s.dataAddr r := rfl
@[simp] theorem setRegs_fetchWord : (s.setRegs v).fetchWord = s.fetchWord := rfl
end

section
variable (s : State) (a : Word)
@[simp] theorem setPc_v : (s.setPc a).v = s.v := rfl
@[simp] theorem setPc_pc : (s.setPc a).pc = a := rfl
@[simp] theorem setPc_I : (s.setPc a).I = s.I := rfl
@[simp] theorem setPc_stack : (s.setPc a).stack = s.stack := rfl
@[simp] theorem setPc_sp : (s.setPc a).sp = s.sp := rfl
@[simp] theorem setPc_delayTimer : (s.setPc a).delayTimer = s.delayTimer := rfl
@[simp] theorem setPc_soundTimer : (s.setPc a).soundTimer = s.soundTimer := rfl
@[simp] theorem setPc_mem : (s.setPc a).mem = s.mem := rfl
@[simp] theorem setPc_graphic : (s.setPc a).graphic = s.graphic := rfl
@[simp] theorem setPc_key : (s.setPc a).key = s.key := rfl
@[simp] theorem setPc_opcode : (s.setPc a).opcode = s.opcode := rfl
@[simp] theorem setPc_drawFlag : (s.setPc a).drawFlag = s.drawFlag := rfl
@[simp] theorem setPc_cycleCounter : (s.setPc a).cycleCounter = s.cycleCounter := rfl
@[simp] theorem setPc_status : (s.setPc a).status = s.status := rfl
@[simp] theorem setPc_rngDraws : (s.setPc a).rngDraws = s.rngDraws := rfl
@[simp] theorem setPc_getV (r : Nibble) : (s.setPc a).getV r = s.getV r := rfl
@[simp] theorem setPc_readMem (r : Nat) : (s.setPc a).readMem r = s.readMem r := rfl
@[simp] theorem setPc_keyDown (r : Nat) : (s.setPc a).keyDown r = s.keyDown r := rfl
@[simp] theorem setPc_firstKey : (s.setPc a).firstKey = s.firstKey := rfl
@[simp] theorem setPc_dataAddr (r : Nat) : (s.setPc a).dataAddr r = s.dataAddr r := rfl
end

section
variable (s : State) (a : Word)
@[simp] theorem setI_v : (s.setI a).v = s.v := rfl
@[simp] theorem setI_pc : (s.setI a).pc = s.pc := rfl
@[simp] theorem setI_I : (s.setI a).I = a := rfl
@[simp] theorem setI_stack : (s.setI a).stack = s.stack := rfl
@[simp] theorem setI_sp : (s.setI a).sp = s.sp := rfl
@[simp] theorem setI_delayTimer : (s.setI a).delayTimer = s.delayTimer := rfl
@[simp] theorem setI_soundTimer : (s.setI a).soundTimer = s.soundTimer := rfl
@[simp] theorem setI_mem : (s.setI a).mem = s.mem := rfl
@[simp] theorem setI_graphic : (s.setI a).graphic = s.graphic := rfl
@[simp] theorem setI_key : (s.setI a).key = s.key := rfl
@[simp] theorem setI_opcode : (s.setI a).opcode = s.opcode := rfl
@[simp] theorem setI_drawFlag : (s.setI a).drawFlag = s.drawFlag := rfl
@[simp] theorem setI_cycleCounter : (s.setI a).cycleCounter = s.cycleCounter := rfl
@[simp] theorem setI_status : (s.setI a).status = s.status := rfl
@[simp] theorem setI_rngDraws : (s.setI a).rngDraws = s.rngDraws := rfl
@[simp] theorem setI_getV (r : Nibble) : (s.setI a).getV r = s.getV r := rfl
@[simp] theorem setI_readMem (r : Nat) : (s.setI a).readMem r = s.readMem r := rfl
@[simp] theorem setI_keyDown (r : Nat) : (s.setI a).keyDown r = s.keyDown r := rfl
@[simp] theorem setI_firstKey : (s.setI a).firstKey = s.firstKey := rfl
@[simp] theorem setI_fetchWord : (s.setI a).fetchWord = s.fetchWord := rfl
end

section
variable (s : State) (st : Vector Word 16)
@[simp] theorem setStack_v : (s.setStack st).v = s.v := rfl
@[simp] theorem setStack_pc : (s.setStack st).pc = s.pc := rfl
@[simp] theorem setStack_I : (s.setStack st).I = s.I := rfl
@[simp] theorem setStack_stack : (s.setStack st).stack = st := rfl
@[simp] theorem setStack_sp : (s.setStack st).sp = s.sp := rfl
@[simp] theorem setStack_delayTimer : (s.setStack st).delayTimer = s.delayTimer := rfl
@[simp] theorem setStack_soundTimer : (s.setStack st).soundTimer = s.soundTimer := rfl
@[simp] theorem setStack_mem : (s.setStack st).mem = s.mem := rfl
@[simp] theorem setStack_graphic : (s.setStack st).graphic = s.graphic := rfl
@[simp] theorem setStack_key : (s.setStack st).key = s.key := rfl
@[simp] theorem setStack_opcode : (s.setStack st).opcode = s.opcode := rfl
@[simp] theorem setStack_drawFlag : (s.setStack st).drawFlag = s.drawFlag := rfl
@[simp] theorem setStack_cycleCounter : (s.setStack st).cycleCounter = s.cycleCounter := rfl
@[simp] theorem setStack_status : (s.setStack st).status = s.status := rfl
@[simp] theorem setStack_rngDraws : (s.setStack st).rngDraws = s.rngDraws := rfl
@[simp] theorem setStack_getV (r : Nibble) : (s.setStack st).getV r = s.getV r := rfl
@[simp] theorem setStack_readMem (r : Nat) : (s.setStack st).readMem r = s.readMem r := rfl
@[simp] theorem setStack_keyDown (r : Nat) : (s.setStack st).keyDown r = s.keyDown r := rfl
@[simp] theorem setStack_firstKey : (s.setStack st).firstKey = s.firstKey := rfl
@[simp] theorem setStack_dataAddr (r : Nat) : (s.setStack st).dataAddr r = s.dataAddr r := rfl
@[simp] theorem setStack_fetchWord : (s.setStack st).fetchWord = s.fetchWord := rfl
end

section
variable (s : State) (n : Fin 17)
@[simp] theorem setSp_v : (s.setSp n).v = s.v := rfl
@[simp] theorem setSp_pc : (s.setSp n).pc = s.pc := rfl
@[simp] theorem setSp_I : (s.setSp n).I = s.I := rfl
@[simp] theorem setSp_stack : (s.setSp n).stack = s.stack := rfl
@[simp] theorem setSp_sp : (s.setSp n).sp = n := rfl
@[simp] theorem setSp_delayTimer : (s.setSp n).delayTimer = s.delayTimer := rfl
@[simp] theorem setSp_soundTimer : (s.setSp n).soundTimer = s.soundTimer := rfl
@[simp] theorem setSp_mem : (s.setSp n).mem = s.mem := rfl
@[simp] theorem setSp_graphic : (s.setSp n).graphic = s.graphic := rfl
@[simp] theorem setSp_key : (s.setSp n).key = s.key := rfl
@[simp] theorem setSp_opcode : (s.setSp n).opcode = s.opcode := rfl
@[simp] theorem setSp_drawFlag : (s.setSp n).drawFlag = s.drawFlag := rfl
@[simp] theorem setSp_cycleCounter : (s.setSp n).cycleCounter = s.cycleCounter := rfl
@[simp] theorem setSp_status : (s.setSp n).status = s.status := rfl
@[simp] theorem setSp_rngDraws : (s.setSp n).rngDraws = s.rngDraws := rfl
@[simp] theorem setSp_getV (r : Nibble) : (s.setSp n).getV r = s.getV r := rfl
@[simp] theorem setSp_readMem (r : Nat) : (s.setSp n).readMem r = s.readMem r := rfl
@[simp] theorem setSp_keyDown (r : Nat) : (s.setSp n).keyDown r = s.keyDown r := rfl
@[simp] theorem setSp_firstKey : (s.setSp n).firstKey = s.firstKey := rfl
@[simp] theorem setSp_dataAddr (r : Nat) : (s.setSp n).dataAddr r = s.dataAddr r := rfl
@[simp] theorem setSp_fetchWord : (s.setSp n).fetchWord = s.fetchWord := rfl
end

section
variable (s : State) (b : Byte)
@[simp] theorem setDelayTimer_v : (s.setDelayTimer b).v = s.v := rfl
@[simp] theorem setDelayTimer_pc : (s.setDelayTimer b).pc = s.pc := rfl
@[simp] theorem setDelayTimer_I : (s.setDelayTimer b).I = s.I := rfl
@[simp] theorem setDelayTimer_stack : (s.setDelayTimer b).stack = s.stack := rfl
@[simp] theorem setDelayTimer_sp : (s.setDelayTimer b).sp = s.sp := rfl
@[simp] theorem setDelayTimer_delayTimer : (s.setDelayTimer b).delayTimer = b := rfl
@[simp] theorem setDelayTimer_soundTimer : (s.setDelayTimer b).soundTimer = s.soundTimer := rfl
@[simp] theorem setDelayTimer_mem : (s.setDelayTimer b).mem = s.mem := rfl
@[simp] theorem setDelayTimer_graphic : (s.setDelayTimer b).graphic = s.graphic := rfl
@[simp] theorem setDelayTimer_key : (s.setDelayTimer b).key = s.key := rfl
@[simp] theorem setDelayTimer_opcode : (s.setDelayTimer b).opcode = s.opcode := rfl
@[simp] theorem setDelayTimer_drawFlag : (s.setDelayTimer b).drawFlag = s.drawFlag := rfl
@[simp] theorem setDelayTimer_cycleCounter : (s.setDelayTimer b).cycleCounter = s.cycleCounter := rfl
@[simp] theorem setDelayTimer_status : (s.setDelayTimer b).status = s.status := rfl
@[simp] theorem setDelayTimer_rngDraws : (s.setDelayTimer b).rngDraws = s.rngDraws := rfl
@[simp] theorem setDelayTimer_getV (r : Nibble) : (s.setDelayTimer b).getV r = s.getV r := rfl
@[simp] theorem setDelayTimer_readMem (r : Nat) : (s.setDelayTimer b).readMem r = s.readMem r := rfl
@[simp] theorem setDelayTimer_keyDown (r : Nat) : (s.setDelayTimer b).keyDown r = s.keyDown r := rfl
@[simp] theorem setDelayTimer_firstKey : (s.setDelayTimer b).firstKey = s.firstKey := rfl
@[simp] theorem setDelayTimer_dataAddr (r : Nat) : (s.setDelayTimer b).dataAddr r = s.dataAddr r := rfl
@[simp] theorem setDelayTimer_fetchWord : (s.setDelayTimer b).fetchWord = s.fetchWord := rfl
end

section
variable (s : State) (b : Byte)
@[simp] theorem setSoundTimer_v : (s.setSoundTimer b).v = s.v := rfl
@[simp] theorem setSoundTimer_pc : (s.setSoundTimer b).pc = s.pc := rfl
@[simp] theorem setSoundTimer_I : (s.setSoundTimer b).I = s.I := rfl
@[simp] theorem setSoundTimer_stack : (s.setSoundTimer b).stack = s.stack := rfl
@[simp] theorem setSoundTimer_sp : (s.setSoundTimer b).sp = s.sp := rfl
@[simp] theorem setSoundTimer_delayTimer : (s.setSoundTimer b).delayTimer = s.delayTimer := rfl
@[simp] theorem setSoundTimer_soundTimer : (s.setSoundTimer b).soundTimer = b := rfl
@[simp] theorem setSoundTimer_mem : (s.setSoundTimer b).mem = s.mem := rfl
@[simp] theorem setSoundTimer_graphic : (s.setSoundTimer b).graphic = s.graphic := rfl
@[simp] theorem setSoundTimer_key : (s.setSoundTimer b).key = s.key := rfl
@[simp] theorem setSoundTimer_opcode : (s.setSoundTimer b).opcode = s.opcode := rfl
@[simp] theorem setSoundTimer_drawFlag : (s.setSoundTimer b).drawFlag = s.drawFlag := rfl
@[simp] theorem setSoundTimer_cycleCounter : (s.setSoundTimer b).cycleCounter = s.cycleCounter := rfl
@[simp] theorem setSoundTimer_status : (s.setSoundTimer b).status = s.status := rfl
@[simp] theorem setSoundTimer_rngDraws : (s.setSoundTimer b).rngDraws = s.rngDraws := rfl
@[simp] theorem setSoundTimer_getV (r : Nibble) : (s.setSoundTimer b).getV r = s.getV r := rfl
@[simp] theorem setSoundTimer_readMem (r : Nat) : (s.setSoundTimer b).readMem r = s.readMem r := rfl
@[simp] theorem setSoundTimer_keyDown (r : Nat) : (s.setSoundTimer b).keyDown r = s.keyDown r := rfl
@[simp] theorem setSoundTimer_firstKey : (s.setSoundTimer b).firstKey = s.firstKey := rfl
@[simp] theorem setSoundTimer_dataAddr (r : Nat) : (s.setSoundTimer b).dataAddr r = s.dataAddr r := rfl
@[simp] theorem setSoundTimer_fetchWord : (s.setSoundTimer b).fetchWord = s.fetchWord := rfl
end

section
variable (s : State) (m : Memory)
@[simp] theorem setMem_v : (s.setMem m).v = s.v := rfl
@[simp] theorem setMem_pc : (s.setMem m).pc = s.pc := rfl
@[simp] theorem setMem_I : (s.setMem m).I = s.I := rfl
@[simp] theorem setMem_stack : (s.setMem m).stack = s.stack := rfl
@[simp] theorem setMem_sp : (s.setMem m).sp = s.sp := rfl
@[simp] theorem setMem_delayTimer : (s.setMem m).delayTimer = s.delayTimer := rfl
@[simp] theorem setMem_soundTimer : (s.setMem m).soundTimer = s.soundTimer := rfl
@[simp] theorem setMem_mem : (s.setMem m).mem = m := rfl
@[simp] theorem setMem_graphic : (s.setMem m).graphic = s.graphic := rfl
@[simp] theorem setMem_key : (s.setMem m).key = s.key := rfl
@[simp] theorem setMem_opcode : (s.setMem m).opcode = s.opcode := rfl
@[simp] theorem setMem_drawFlag : (s.setMem m).drawFlag = s.drawFlag := rfl
@[simp] theorem setMem_cycleCounter : (s.setMem m).cycleCounter = s.cycleCounter := rfl
@[simp] theorem setMem_status : (s.setMem m).status = s.status := rfl
@[simp] theorem setMem_rngDraws : (s.setMem m).rngDraws = s.rngDraws := rfl
@[simp] theorem setMem_getV (r : Nibble) : (s.setMem m).getV r = s.getV r := rfl
@[simp] theorem setMem_keyDown (r : Nat) : (s.setMem m).keyDown r = s.keyDown r := rfl
@[simp] theorem setMem_firstKey : (s.setMem m).firstKey = s.firstKey := rfl
@[simp] theorem setMem_dataAddr (r : Nat) : (s.setMem m).dataAddr r = s.dataAddr r := rfl
end

section
variable (s : State) (g : Framebuffer)
@[simp] theorem setGraphic_v : (s.setGraphic g).v = s.v := rfl
@[simp] theorem setGraphic_pc : (s.setGraphic g).pc = s.pc := rfl
@[simp] theorem setGraphic_I : (s.setGraphic g).I = s.I := rfl
@[simp] theorem setGraphic_stack : (s.setGraphic g).stack = s.stack := rfl
@[simp] theorem setGraphic_sp : (s.setGraphic g).sp = s.sp := rfl
@[simp] theorem setGraphic_delayTimer : (s.setGraphic g).delayTimer = s.delayTimer := rfl
@[simp] theorem setGraphic_soundTimer : (s.setGraphic g).soundTimer = s.soundTimer := rfl
@[simp] theorem setGraphic_mem : (s.setGraphic g).mem = s.mem := rfl
@[simp] theorem setGraphic_graphic : (s.setGraphic g).graphic = g := rfl
@[simp] theorem setGraphic_key : (s.setGraphic g).key = s.key := rfl
@[simp] theorem setGraphic_opcode : (s.setGraphic g).opcode = s.opcode := rfl
@[simp] theorem setGraphic_drawFlag : (s.setGraphic g).drawFlag = s.drawFlag := rfl
@[simp] theorem setGraphic_cycleCounter : (s.setGraphic g).cycleCounter = s.cycleCounter := rfl
@[simp] theorem setGraphic_status : (s.setGraphic g).status = s.status := rfl
@[simp] theorem setGraphic_rngDraws : (s.setGraphic g).rngDraws = s.rngDraws := rfl
@[simp] theorem setGraphic_getV (r : Nibble) : (s.setGraphic g).getV r = s.getV r := rfl
@[simp] theorem setGraphic_readMem (r : Nat) : (s.setGraphic g).readMem r = s.readMem r := rfl
@[simp] theorem setGraphic_keyDown (r : Nat) : (s.setGraphic g).keyDown r = s.keyDown r := rfl
@[simp] theorem setGraphic_firstKey : (s.setGraphic g).firstKey = s.firstKey := rfl
@[simp] theorem setGraphic_dataAddr (r : Nat) : (s.setGraphic g).dataAddr r = s.dataAddr r := rfl
@[simp] theorem setGraphic_fetchWord : (s.setGraphic g).fetchWord = s.fetchWord := rfl
end

section
variable (s : State) (k : Vector Bool 16)
@[simp] theorem setKey_v : (s.setKey k).v = s.v := rfl
@[simp] theorem setKey_pc : (s.setKey k).pc = s.pc := rfl
@[simp] theorem setKey_I : (s.setKey k).I = s.I := rfl
@[simp] theorem setKey_stack : (s.setKey k).stack = s.stack := rfl
@[simp] theorem setKey_sp : (s.setKey k).sp = s.sp := rfl
@[simp] theorem setKey_delayTimer : (s.setKey k).delayTimer = s.delayTimer := rfl
@[simp] theorem setKey_soundTimer : (s.setKey k).soundTimer = s.soundTimer := rfl
@[simp] theorem setKey_mem : (s.setKey k).mem = s.mem := rfl
@[simp] theorem setKey_graphic : (s.setKey k).graphic = s.graphic := rfl
@[simp] theorem setKey_key : (s.setKey k).key = k := rfl
@[simp] theorem setKey_opcode : (s.setKey k).opcode = s.opcode := rfl
@[simp] theorem setKey_drawFlag : (s.setKey k).drawFlag = s.drawFlag := rfl
@[simp] theorem setKey_cycleCounter : (s.setKey k).cycleCounter = s.cycleCounter := rfl
@[simp] theorem setKey_status : (s.setKey k).status = s.status := rfl
@[simp] theorem setKey_rngDraws : (s.setKey k).rngDraws = s.rngDraws := rfl
@[simp] theorem setKey_getV (r : Nibble) : (s.setKey k).getV r = s.getV r := rfl
@[simp] theorem setKey_readMem (r : Nat) : (s.setKey k).readMem r = s.readMem r := rfl
@[simp] theorem setKey_dataAddr (r : Nat) : (s.setKey k).dataAddr r = s.dataAddr r := rfl
@[simp] theorem setKey_fetchWord : (s.setKey k).fetchWord = s.fetchWord := rfl
end

section
variable (s : State) (op : Word)
@[simp] theorem setOpcode_v : (s.setOpcode op).v = s.v := rfl
@[simp] theorem setOpcode_pc : (s.setOpcode op).pc = s.pc := rfl
@[simp] theorem setOpcode_I : (s.setOpcode op).I = s.I := rfl
@[simp] theorem setOpcode_stack : (s.setOpcode op).stack = s.stack := rfl
@[simp] theorem setOpcode_sp : (s.setOpcode op).sp = s.sp := rfl
@[simp] theorem setOpcode_delayTimer : (s.setOpcode op).delayTimer = s.delayTimer := rfl
@[simp] theorem setOpcode_soundTimer : (s.setOpcode op).soundTimer = s.soundTimer := rfl
@[simp] theorem setOpcode_mem : (s.setOpcode op).mem = s.mem := rfl
@[simp] theorem setOpcode_graphic : (s.setOpcode op).graphic = s.graphic := rfl
@[simp] theorem setOpcode_key : (s.setOpcode op).key = s.key := rfl
@[simp] theorem setOpcode_opcode : (s.setOpcode op).opcode = op := rfl
@[simp] theorem setOpcode_drawFlag : (s.setOpcode op).drawFlag = s.drawFlag := rfl
@[simp] theorem setOpcode_cycleCounter : (s.setOpcode op).cycleCounter = s.cycleCounter := rfl
@[simp] theorem setOpcode_status : (s.setOpcode op).status = s.status := rfl
@[simp] theorem setOpcode_rngDraws : (s.setOpcode op).rngDraws = s.rngDraws := rfl
@[simp] theorem setOpcode_getV (r : Nibble) : (s.setOpcode op).getV r = s.getV r := rfl
@[simp] theorem setOpcode_readMem (r : Nat) : (s.setOpcode op).readMem r = s.readMem r := rfl
@[simp] theorem setOpcode_keyDown (r : Nat) : (s.setOpcode op).keyDown r = s.keyDown r := rfl
@[simp] theorem setOpcode_firstKey : (s.setOpcode op).firstKey = s.firstKey := rfl
@[simp] theorem setOpcode_dataAddr (r : Nat) : (s.setOpcode op).dataAddr r = s.dataAddr r := rfl
@[simp] theorem setOpcode_fetchWord : (s.setOpcode op).fetchWord = s.fetchWord := rfl
end

section
variable (s : State) (b : Bool)
@[simp] theorem setDrawFlag_v : (s.setDrawFlag b).v = s.v := rfl
@[simp] theorem setDrawFlag_pc : (s.setDrawFlag b).pc = s.pc := rfl
@[simp] theorem setDrawFlag_I : (s.setDrawFlag b).I = s.I := rfl
@[simp] theorem setDrawFlag_stack : (s.setDrawFlag b).stack = s.stack := rfl
@[simp] theorem setDrawFlag_sp : (s.setDrawFlag b).sp = s.sp := rfl
@[simp] theorem setDrawFlag_delayTimer : (s.setDrawFlag b).delayTimer = s.delayTimer := rfl
@[simp] theorem setDrawFlag_soundTimer : (s.setDrawFlag b).soundTimer = s.soundTimer := rfl
@[simp] theorem setDrawFlag_mem : (s.setDrawFlag b).mem = s.mem := rfl
@[simp] theorem setDrawFlag_graphic : (s.setDrawFlag b).graphic = s.graphic := rfl
@[simp] theorem setDrawFlag_key : (s.setDrawFlag b).key = s.key := rfl
@[simp] theorem setDrawFlag_opcode : (s.setDrawFlag b).opcode = s.opcode := rfl
@[simp] theorem setDrawFlag_drawFlag : (s.setDrawFlag b).drawFlag = b := rfl
@[simp] theorem setDrawFlag_cycleCounter : (s.setDrawFlag b).cycleCounter = s.cycleCounter := rfl
@[simp] theorem setDrawFlag_status : (s.setDrawFlag b).status = s.status := rfl
@[simp] theorem setDrawFlag_rngDraws : (s.setDrawFlag b).rngDraws = s.rngDraws := rfl
@[simp] theorem setDrawFlag_getV (r : Nibble) : (s.setDrawFlag b).getV r = s.getV r := rfl
@[simp] theorem setDrawFlag_readMem (r : Nat) : (s.setDrawFlag b).readMem r = s.readMem r := rfl
@[simp] theorem setDrawFlag_keyDown (r : Nat) : (s.setDrawFlag b).keyDown r = s.keyDown r := rfl
@[simp] theorem setDrawFlag_firstKey : (s.setDrawFlag b).firstKey = s.firstKey := rfl
@[simp] theorem setDrawFlag_dataAddr (r : Nat) : (s.setDrawFlag b).dataAddr r = s.dataAddr r := rfl
@[simp] theorem setDrawFlag_fetchWord : (s.setDrawFlag b).fetchWord = s.fetchWord := rfl
end

section
variable (s : State) (c : BitVec 3)
@[simp] theorem setCycleCounter_v : (s.setCycleCounter c).v = s.v := rfl
@[simp] theorem setCycleCounter_pc : (s.setCycleCounter c).pc = s.pc := rfl
@[simp] theorem setCycleCounter_I : (s.setCycleCounter c).I = s.I := rfl
@[simp] theorem setCycleCounter_stack : (s.setCycleCounter c).stack = s.stack := rfl
@[simp] theorem setCycleCounter_sp : (s.setCycleCounter c).sp = s.sp := rfl
@[simp] theorem setCycleCounter_delayTimer : (s.setCycleCounter c).delayTimer = s.delayTimer := rfl
@[simp] theorem setCycleCounter_soundTimer : (s.setCycleCounter c).soundTimer = s.soundTimer := rfl
@[simp] theorem setCycleCounter_mem : (s.setCycleCounter c).mem = s.mem := rfl
@[simp] theorem setCycleCounter_graphic : (s.setCycleCounter c).graphic = s.graphic := rfl
@[simp] theorem setCycleCounter_key : (s.setCycleCounter c).key = s.key := rfl
@[simp] theorem setCycleCounter_opcode : (s.setCycleCounter c).opcode = s.opcode := rfl
@[simp] theorem setCycleCounter_drawFlag : (s.setCycleCounter c).drawFlag = s.drawFlag := rfl
@[simp] theorem setCycleCounter_cycleCounter : (s.setCycleCounter c).cycleCounter = c := rfl
@[simp] theorem setCycleCounter_status : (s.setCycleCounter c).status = s.status := rfl
@[simp] theorem setCycleCounter_rngDraws : (s.setCycleCounter c).rngDraws = s.rngDraws := rfl
@[simp] theorem setCycleCounter_getV (r : Nibble) : (s.setCycleCounter c).getV r = s.getV r := rfl
@[simp] theorem setCycleCounter_readMem (r : Nat) : (s.setCycleCounter c).readMem r = s.readMem r := rfl
@[simp] theorem setCycleCounter_keyDown (r : Nat) : (s.setCycleCounter c).keyDown r = s.keyDown r := rfl
@[simp] theorem setCycleCounter_firstKey : (s.setCycleCounter c).firstKey = s.firstKey := rfl
@[simp] theorem setCycleCounter_dataAddr (r : Nat) : (s.setCycleCounter c).dataAddr r = s.dataAddr r := rfl
@[simp] theorem setCycleCounter_fetchWord : (s.setCycleCounter c).fetchWord = s.fetchWord := rfl
end

section
variable (s : State) (st : Status)
@[simp] theorem setStatus_v : (s.setStatus st).v = s.v := rfl
@[simp] theorem setStatus_pc : (s.setStatus st).pc = s.pc := rfl
@[simp] theorem setStatus_I : (s.setStatus st).I = s.I := rfl
@[simp] theorem setStatus_stack : (s.setStatus st).stack = s.stack := rfl
@[simp] theorem setStatus_sp : (s.setStatus st).sp = s.sp := rfl
@[simp] theorem setStatus_delayTimer : (s.setStatus st).delayTimer = s.delayTimer := rfl
@[simp] theorem setStatus_soundTimer : (s.setStatus st).soundTimer = s.soundTimer := rfl
@[simp] theorem setStatus_mem : (s.setStatus st).mem = s.mem := rfl
@[simp] theorem setStatus_graphic : (s.setStatus st).graphic = s.graphic := rfl
@[simp] theorem setStatus_key : (s.setStatus st).key = s.key := rfl
@[simp] theorem setStatus_opcode : (s.setStatus st).opcode = s.opcode := rfl
@[simp] theorem setStatus_drawFlag : (s.setStatus st).drawFlag = s.drawFlag := rfl
@[simp] theorem setStatus_cycleCounter : (s.setStatus st).cycleCounter = s.cycleCounter := rfl
@[simp] theorem setStatus_status : (s.setStatus st).status = st := rfl
@[simp] theorem setStatus_rngDraws : (s.setStatus st).rngDraws = s.rngDraws := rfl
@[simp] theorem setStatus_getV (r : Nibble) : (s.setStatus st).getV r = s.getV r := rfl
@[simp] theorem setStatus_readMem (r : Nat) : (s.setStatus st).readMem r = s.readMem r := rfl
@[simp] theorem setStatus_keyDown (r : Nat) : (s.setStatus st).keyDown r = s.keyDown r := rfl
@[simp] theorem setStatus_firstKey : (s.setStatus st).firstKey = s.firstKey := rfl
@[simp] theorem setStatus_dataAddr (r : Nat) : (s.setStatus st).dataAddr r = s.dataAddr r := rfl
@[simp] theorem setStatus_fetchWord : (s.setStatus st).fetchWord = s.fetchWord := rfl
end

section
variable (s : State) (n : Nat)
@[simp] theorem setRngDraws_v : (s.setRngDraws n).v = s.v := rfl
@[simp] theorem setRngDraws_pc : (s.setRngDraws n).pc = s.pc := rfl
@[simp] theorem setRngDraws_I : (s.setRngDraws n).I = s.I := rfl
@[simp] theorem setRngDraws_stack : (s.setRngDraws n).stack = s.stack := rfl
@[simp] theorem setRngDraws_sp : (s.setRngDraws n).sp = s.sp := rfl
@[simp] theorem setRngDraws_delayTimer : (s.setRngDraws n).delayTimer = s.delayTimer := rfl
@[simp] theorem setRngDraws_soundTimer : (s.setRngDraws n).soundTimer = s.soundTimer := rfl
@[simp] theorem setRngDraws_mem : (s.setRngDraws n).mem = s.mem := rfl
@[simp] theorem setRngDraws_graphic : (s.setRngDraws n).graphic = s.graphic := rfl
@[simp] theorem setRngDraws_key : (s.setRngDraws n).key = s.key := rfl
@[simp] theorem setRngDraws_opcode : (s.setRngDraws n).opcode = s.opcode := rfl
@[simp] theorem setRngDraws_drawFlag : (s.setRngDraws n).drawFlag = s.drawFlag := rfl
@[simp] theorem setRngDraws_cycleCounter : (s.setRngDraws n).cycleCounter = s.cycleCounter := rfl
@[simp] theorem setRngDraws_status : (s.setRngDraws n).status = s.status := rfl
@[simp] theorem setRngDraws_rngDraws : (s.setRngDraws n).rngDraws = n := rfl
@[simp] theorem setRngDraws_getV (r : Nibble) : (s.setRngDraws n).getV r = s.getV r := rfl
@[simp] theorem setRngDraws_readMem (r : Nat) : (s.setRngDraws n).readMem r = s.readMem r := rfl
@[simp] theorem setRngDraws_keyDown (r : Nat) : (s.setRngDraws n).keyDown r = s.keyDown r := rfl
@[simp] theorem setRngDraws_firstKey : (s.setRngDraws n).firstKey = s.firstKey := rfl
@[simp] theorem setRngDraws_dataAddr (r : Nat) : (s.setRngDraws n).dataAddr r = s.dataAddr r := rfl
@[simp] theorem setRngDraws_fetchWord : (s.setRngDraws n).fetchWord = s.fetchWord := rfl
end

/-- Two states with equal fields are equal. -/
theorem State.ext_fields {s t : State} (hv : s.v = t.v) (hpc : s.pc = t.pc) (hI : s.I = t.I) (hst : s.stack = t.stack)
    (hsp : s.sp = t.sp) (hd : s.delayTimer = t.delayTimer) (hs : s.soundTimer = t.soundTimer) (hm : s.mem = t.mem)
    (hg : s.graphic = t.graphic) (hk : s.key = t.key) (ho : s.opcode = t.opcode) (hf : s.drawFlag = t.drawFlag)
    (hc : s.cycleCounter = t.cycleCounter) (hr : s.status = t.status) (hn : s.rngDraws = t.rngDraws) : s = t := by
  cases s; cases t; simp_all

/-! ### Registers -/

theorem getV_setV (s : State) (x r : Nibble) (b : Byte) :
    (s.setV x b).getV r = if r = x then b else s.getV r := by
  simp only [State.getV, State.setV, setRegs_v, Vector.getElem_set, BitVec.toNat_inj, eq_comm (a := x)]

@[simp] theorem getV_setV_same (s : State) (x : Nibble) (b : Byte) : (s.setV x b).getV x = b := by
  simp [getV_setV]

theorem getV_setV_ne (s : State) (b : Byte) {x r : Nibble} (h : r ≠ x) : (s.setV x b).getV r = s.getV r := by
  simp [getV_setV, h]

section
variable (s : State) (x : Nibble) (b : Byte)
@[simp] theorem setV_pc : (s.setV x b).pc = s.pc := rfl
@[simp] theorem setV_I : (s.setV x b).I = s.I := rfl
@[simp] theorem setV_stack : (s.setV x b).stack = s.stack := rfl
@[simp] theorem setV_sp : (s.setV x b).sp = s.sp := rfl
@[simp] theorem setV_delayTimer : (s.setV x b).delayTimer = s.delayTimer := rfl
@[simp] theorem setV_soundTimer : (s.setV x b).soundTimer = s.soundTimer := rfl
@[simp] theorem setV_mem : (s.setV x b).mem = s.mem := rfl
@[simp] theorem setV_graphic : (s.setV x b).graphic = s.graphic := rfl
@[simp] theorem setV_key : (s.setV x b).key = s.key := rfl
@[simp] theorem setV_opcode : (s.setV x b).opcode = s.opcode := rfl
@[simp] theorem setV_drawFlag : (s.setV x b).drawFlag = s.drawFlag := rfl
@[simp] theorem setV_cycleCounter : (s.setV x b).cycleCounter = s.cycleCounter := rfl
@[simp] theorem setV_status : (s.setV x b).status = s.status := rfl
@[simp] theorem setV_rngDraws : (s.setV x b).rngDraws = s.rngDraws := rfl
@[simp] theorem setV_readMem (a : Nat) : (s.setV x b).readMem a = s.readMem a := rfl
@[simp] theorem setV_keyDown (k : Nat) : (s.setV x b).keyDown k = s.keyDown k := rfl
@[simp] theorem setV_dataAddr (k : Nat) : (s.setV x b).dataAddr k = s.dataAddr k := rfl
end

/-- R111: the result wins in V[x], the flag stands in VF if x is another register, the rest is as before. -/
theorem getV_setFlagThen (s : State) (flag result : Byte) (x r : Nibble) :
    (s.setFlagThen flag x result).getV r = if r = x then result else if r = VF then flag else s.getV r := by
  simp only [State.setFlagThen, getV_setV]

/-- Writing the flag and the result changes the register file only. -/
theorem setFlagThen_eq_setRegs (s : State) (flag result : Byte) (x : Nibble) :
    ∃ v, s.setFlagThen flag x result = s.setRegs v := ⟨_, rfl⟩

/-- A skip changes pc only. -/
theorem skipIf_eq (s : State) (c : Bool) : s.skipIf c = s.setPc (if c then s.pc + 2 else s.pc) := by
  cases c <;> rfl

end Sys2Proof.Machine
end

