-- ==== Sys2Proof/Laws/Ops.lean ====
section
/-! SUPPORT. For each shared operation, once, everything it can do. -/

namespace Sys2Proof.Machine

/-! ### Faults -/

/-- Raising a fault changes the status only (R241, R243). -/
theorem raiseFault_eq (code : Fault) (s : State) :
    raiseFault code s = .next (s.setStatus (.faulted code (s.pc - 2) s.opcode)) := rfl

/-- A fetch fault changes the status only (R243). -/
theorem raiseFetchFault_eq (s : State) :
    raiseFetchFault s = .next (s.setStatus (.faulted .fetchOutOfRange s.pc s.opcode)) := rfl

/-! ### Stack -/

/-- A call with a free slot pushes pc and jumps; a call on a full stack stops the core. -/
theorem callTo_cases (target : Word) (s : State) :
    (∃ h : s.sp.val < 16, callTo target s =
      .next (((s.setStack (s.stack.set s.sp.val s.pc)).setSp ⟨s.sp.val + 1, by omega⟩).setPc target)) ∨
    (s.sp.val = 16 ∧ callTo target s = raiseFault .stackOverflow s) := by
  by_cases h : s.sp.val < 16
  · exact .inl ⟨h, by simp [callTo, h]⟩
  · exact .inr ⟨by omega, by simp [callTo, h]⟩

/-- A return with a live entry pops it into pc; a return on an empty stack stops the core. -/
theorem popReturn_cases (s : State) :
    (∃ h : 0 < s.sp.val, popReturn s =
      .next ((s.setSp ⟨s.sp.val - 1, by omega⟩).setPc (s.stack[s.sp.val - 1]))) ∨
    (s.sp.val = 0 ∧ popReturn s = raiseFault .stackUnderflow s) := by
  by_cases h : 0 < s.sp.val
  · exact .inl ⟨h, by simp [popReturn, h]⟩
  · exact .inr ⟨by omega, by simp [popReturn, h]⟩

/-! ### Stores and loads -/

/-- A store writes all its bytes, every address in range, or stops the core and writes none. -/
theorem storeBytes_cases (base : Nat) (bs : List Byte) (s : State) :
    ((bs = [] ∨ base + bs.length ≤ 4096) ∧
      storeBytes base bs s = .next (s.setMem (Memory.writeList s.mem base bs))) ∨
    (bs ≠ [] ∧ 4096 < base + bs.length ∧ storeBytes base bs s = raiseFault .writeOutOfRange s) := by
  have h := spanInRange_iff base bs.length
  by_cases hs : spanInRange base bs.length = true
  · exact .inl ⟨by simpa using h.1 hs, by simp [storeBytes, hs]⟩
  · refine .inr ⟨?_, ?_, by simp [storeBytes, hs]⟩
    · rintro rfl
      exact hs (h.2 (.inl rfl))
    · by_contra hlt
      exact hs (h.2 (.inr (by omega)))

/-- The bytes of `writeList` seen through a state. -/
theorem readMem_setMem_writeList (s : State) (base : Nat) (bs : List Byte) (a : Nat) :
    (s.setMem (Memory.writeList s.mem base bs)).readMem a =
      if h : base ≤ a ∧ a - base < bs.length then bs[a - base]'h.2 else s.readMem a :=
  Memory.read_writeList s.mem base bs a

/-- A block load: registers below `n` hold the bytes read, the others are as before. -/
theorem loadRegs_getElem (m : Memory) (base n : Nat) (v : Vector Byte 16) (j : Nat) (hj : j < 16) :
    (loadRegs m base n v)[j] = if j < n then Memory.read m (base + j) else v[j] := by
  induction n with
  | zero => simp [loadRegs]
  | succ n ih =>
    rw [loadRegs, Vector.getElem_setIfInBounds, ih]
    by_cases h : n = j
    · subst h; simp
    · have : j < n + 1 ↔ j < n := by omega
      simp [h, this]

theorem getV_setRegs_loadRegs (s : State) (m : Memory) (base n : Nat) (r : Nibble) :
    (s.setRegs (loadRegs m base n s.v)).getV r =
      if r.toNat < n then Memory.read m (base + r.toNat) else s.getV r :=
  loadRegs_getElem m base n s.v r.toNat r.isLt

/-- FX55's bytes: as many as registers stored, byte `k` being V[k]. -/
@[simp] theorem length_regsUpTo (s : State) (x : Nibble) : (s.regsUpTo x).length = x.toNat + 1 := by
  simp [State.regsUpTo]

theorem getElem_regsUpTo (s : State) (x : Nibble) (k : Nat) (h : k < (s.regsUpTo x).length) :
    (s.regsUpTo x)[k] = s.getV (BitVec.ofNat 4 k) := by
  simp [State.regsUpTo]

@[simp] theorem length_bcdDigits (b : Byte) : (bcdDigits b).length = 3 := rfl

/-! ### Keys -/

/-- A key-index instruction goes on with its index, or stops the core. -/
theorem withKeyIndex_cases (x : Nibble) (s : State) (go : Nat → State) :
    ((s.getV x).toNat < 16 ∧ withKeyIndex x s go = .next (go (s.getV x).toNat)) ∨
    (15 < (s.getV x).toNat ∧ withKeyIndex x s go = raiseFault .keyIndexOutOfRange s) := by
  unfold withKeyIndex
  split
  · exact .inl ⟨by omega, rfl⟩
  · exact .inr ⟨by omega, rfl⟩

/-- The scan of FX0A finds the lowest pressed key. -/
theorem firstKey_eq_some (s : State) (k : Nat) :
    s.firstKey = some k ↔ k < 16 ∧ s.keyDown k = true ∧ ∀ j < k, s.keyDown j = false := by
  simp only [State.firstKey, Config.numKeys, List.find?_range_eq_some, Bool.not_eq_true', List.mem_range]
  tauto

/-- The scan of FX0A finds nothing exactly when no key is pressed. -/
theorem firstKey_eq_none (s : State) : s.firstKey = none ↔ ∀ k < 16, s.keyDown k = false := by
  simp [State.firstKey]

/-! ### Framebuffer -/

theorem pixel_xorPixel (g : Framebuffer) (k : Nat) (bit : Bool) (j : Nat) :
    pixel (xorPixel g k bit) j = (pixel g j ^^ (bit && decide (j = k) && decide (j < 2048))) := by
  unfold pixel xorPixel
  cases bit
  · simp
  · simp only [if_true, BitVec.getLsbD_xor, BitVec.getLsbD_shiftLeft, BitVec.getLsbD_one, Bool.true_and]
    congr 1
    by_cases h1 : j < 2048 <;> by_cases h2 : j = k <;> simp [h1, h2]
    omega

/-- Cells not drawn keep their value. -/
theorem pixel_drawCells_of_not_mem (cells : List (Nat × Bool)) (g : Framebuffer) (hit : Bool) (j : Nat)
    (h : ∀ c ∈ cells, c.1 ≠ j) : pixel (drawCells cells (g, hit)).1 j = pixel g j := by
  induction cells generalizing g hit with
  | nil => rfl
  | cons c cells ih =>
    obtain ⟨k, bit⟩ := c
    rw [drawCells, ih _ _ fun d hd => h d (by simp [hd]), pixel_xorPixel]
    have : j ≠ k := fun e => h (k, bit) (by simp) e.symm
    simp [this]

/-- A drawn cell, drawn once, is XORed with its bit. -/
theorem pixel_drawCells_of_mem (cells : List (Nat × Bool)) (g : Framebuffer) (hit : Bool) (j : Nat) (bit : Bool)
    (hn : (cells.map Prod.fst).Nodup) (hj : j < 2048) (h : (j, bit) ∈ cells) :
    pixel (drawCells cells (g, hit)).1 j = (pixel g j ^^ bit) := by
  induction cells generalizing g hit with
  | nil => simp at h
  | cons c cells ih =>
    obtain ⟨k, b⟩ := c
    rw [List.map_cons, List.nodup_cons] at hn
    rw [drawCells]
    rcases List.mem_cons.1 h with heq | hmem
    · obtain ⟨rfl, rfl⟩ := Prod.mk.inj heq
      rw [pixel_drawCells_of_not_mem, pixel_xorPixel]
      · simp [hj]
      · intro d hd e
        exact hn.1 (List.mem_map.2 ⟨d, hd, e⟩)
    · have hne : j ≠ k := fun e => hn.1 (e ▸ List.mem_map.2 ⟨(j, bit), hmem, rfl⟩)
      rw [ih _ _ hn.2 hmem, pixel_xorPixel]
      simp [hne]

/-- The collision: some cell, drawn once, held 1 under a 1 bit. -/
theorem drawCells_hit (cells : List (Nat × Bool)) (g : Framebuffer) (hit : Bool) (hn : (cells.map Prod.fst).Nodup) :
    (drawCells cells (g, hit)).2 = true ↔ hit = true ∨ ∃ c ∈ cells, pixel g c.1 = true ∧ c.2 = true := by
  induction cells generalizing g hit with
  | nil => simp [drawCells]
  | cons c cells ih =>
    obtain ⟨k, b⟩ := c
    rw [List.map_cons, List.nodup_cons] at hn
    have key : ∀ d ∈ cells, pixel (xorPixel g k b) d.1 = pixel g d.1 := fun d hd => by
      have : d.1 ≠ k := fun e => hn.1 (e ▸ List.mem_map.2 ⟨d, hd, rfl⟩)
      rw [pixel_xorPixel]
      simp [this]
    rw [drawCells, ih _ _ hn.2]
    constructor
    · rintro (h | ⟨d, hd, h1, h2⟩)
      · rcases Bool.or_eq_true _ _ ▸ h with h | h
        · exact .inl h
        · exact .inr ⟨(k, b), by simp, by simpa using h⟩
      · exact .inr ⟨d, by simp [hd], key d hd ▸ h1, h2⟩
    · rintro (h | ⟨d, hd, h1, h2⟩)
      · exact .inl (by simp [h])
      · rcases List.mem_cons.1 hd with rfl | hd
        · exact .inl (by simp [h1, show b = true from h2])
        · exact .inr ⟨d, hd, (key d hd).symm ▸ h1, h2⟩

/-! ### Sprites -/

theorem mem_spritePixels (n : Nat) (p : Nat × Nat) : p ∈ spritePixels n ↔ p.1 < n ∧ p.2 < 8 := by
  obtain ⟨r, c⟩ := p
  simp only [spritePixels, List.mem_flatMap, List.mem_map, List.mem_range, Prod.mk.injEq]
  constructor
  · rintro ⟨r', hr, c', hc, rfl, rfl⟩
    exact ⟨hr, hc⟩
  · rintro ⟨hr, hc⟩
    exact ⟨r, hr, c, hc, rfl, rfl⟩

theorem nodup_spritePixels (n : Nat) : (spritePixels n).Nodup := by
  rw [spritePixels, List.nodup_flatMap]
  refine ⟨fun r _ => (List.nodup_range).map fun c c' h => (Prod.mk.inj h).2, ?_⟩
  refine List.nodup_range.imp fun {r r'} hne => ?_
  simp only [Function.onFun, List.disjoint_left, List.mem_map, List.mem_range]
  rintro _ ⟨c, _, rfl⟩ ⟨c', _, h⟩
  exact hne (Prod.mk.inj h).1.symm

/-- The cells of one sprite are distinct (R200's remark). -/
theorem cellIndex_inj {x0 y0 r c r' c' : Nat} (hc : c < 8) (hc' : c' < 8)
    (h : cellIndex x0 y0 r c = cellIndex x0 y0 r' c') : r = r' ∧ c = c' := by
  simp only [cellIndex, Config.screenW] at h
  omega

theorem nodup_spriteCells (s : State) (x0 y0 n : Nat) : ((s.spriteCells x0 y0 n).map Prod.fst).Nodup := by
  rw [State.spriteCells, List.map_map]
  refine List.Nodup.map_on ?_ (nodup_spritePixels n)
  intro p hp q hq h
  exact Prod.ext (cellIndex_inj ((mem_spritePixels n p).1 hp).2 ((mem_spritePixels n q).1 hq).2 h).1
    (cellIndex_inj ((mem_spritePixels n p).1 hp).2 ((mem_spritePixels n q).1 hq).2 h).2

theorem mem_spriteCells (s : State) (x0 y0 n : Nat) (c : Nat × Bool) :
    c ∈ s.spriteCells x0 y0 n ↔
      ∃ r < n, ∃ q < 8, c = (cellIndex x0 y0 r q, s.spriteBit r q) := by
  simp only [State.spriteCells, List.mem_map, mem_spritePixels]
  constructor
  · rintro ⟨p, ⟨h1, h2⟩, rfl⟩
    exact ⟨p.1, h1, p.2, h2, rfl⟩
  · rintro ⟨r, hr, q, hq, rfl⟩
    exact ⟨(r, q), ⟨hr, hq⟩, rfl⟩

/-- The box check, cell by cell. -/
theorem cellsInRange_eq_true (x0 y0 n : Nat) :
    cellsInRange x0 y0 n = true ↔ ∀ r < n, ∀ c < 8, cellIndex x0 y0 r c < 2048 := by
  simp only [cellsInRange, List.all_eq_true, decide_eq_true_eq, Config.screenCells]
  constructor
  · intro h r hr c hc
    exact h (r, c) ((mem_spritePixels n (r, c)).2 ⟨hr, hc⟩)
  · intro h p hp
    exact h p.1 ((mem_spritePixels n p).1 hp).1 p.2 ((mem_spritePixels n p).1 hp).2

/-- A draw stops the core on its first failed check, or draws and writes the framebuffer, VF and drawFlag. -/
theorem drawAt_cases (x0 y0 n : Nat) (s : State) :
    (spanInRange (s.dataAddr 0) n = true ∧ cellsInRange x0 y0 n = true ∧ drawAt x0 y0 n s =
      .next (((s.setGraphic (s.drawn x0 y0 n).1).setV VF (flagByte (s.drawn x0 y0 n).2)).setDrawFlag true)) ∨
    (spanInRange (s.dataAddr 0) n = true ∧ cellsInRange x0 y0 n = false ∧
      drawAt x0 y0 n s = raiseFault .framebufferOutOfRange s) ∨
    (spanInRange (s.dataAddr 0) n = false ∧ drawAt x0 y0 n s = raiseFault .readOutOfRange s) := by
  unfold drawAt
  cases spanInRange (s.dataAddr 0) n <;> cases cellsInRange x0 y0 n <;> simp

end Sys2Proof.Machine
end

