-- ==== Sys2Proof/Laws/Cycle.lean ====
section
/-! SUPPORT. Steps 1 to 3 of a cycle, and what step 4 does and never does, over all instructions. -/

namespace Sys2Proof.Machine

/-! ### Steps 1 to 3 (40_cycle_engine R102 to R104) -/

theorem toNat_decTimer (b : Byte) : (decTimer b).toNat = b.toNat - 1 := by
  have := b.isLt
  unfold decTimer
  split
  · rw [BitVec.toNat_sub_of_le (by bv_omega)]
    rfl
  · omega

theorem timerDecay_eq (s : State) :
    s.timerDecay = ((s.setCycleCounter (s.cycleCounter + 1)).setDelayTimer
      (if s.cycleCounter + 1 = 0 then decTimer s.delayTimer else s.delayTimer)).setSoundTimer
      (if s.cycleCounter + 1 = 0 then decTimer s.soundTimer else s.soundTimer) := by
  unfold State.timerDecay
  split <;> rfl

theorem counter_wraps_iff (c : BitVec 3) : c + 1 = 0 ↔ c.toNat = 7 := by
  revert c
  decide

theorem toNat_counter_succ (c : BitVec 3) : (c + 1).toNat = (c.toNat + 1) % 8 := by
  revert c
  decide

section
variable (s : State) (op : Word)
@[simp] theorem beginCycle_v : (s.beginCycle op).v = s.v := by simp [State.beginCycle, timerDecay_eq]
@[simp] theorem beginCycle_pc : (s.beginCycle op).pc = s.pc + 2 := by simp [State.beginCycle, timerDecay_eq]
@[simp] theorem beginCycle_I : (s.beginCycle op).I = s.I := by simp [State.beginCycle, timerDecay_eq]
@[simp] theorem beginCycle_stack : (s.beginCycle op).stack = s.stack := by simp [State.beginCycle, timerDecay_eq]
@[simp] theorem beginCycle_sp : (s.beginCycle op).sp = s.sp := by simp [State.beginCycle, timerDecay_eq]
@[simp] theorem beginCycle_mem : (s.beginCycle op).mem = s.mem := by simp [State.beginCycle, timerDecay_eq]
@[simp] theorem beginCycle_graphic : (s.beginCycle op).graphic = s.graphic := by simp [State.beginCycle, timerDecay_eq]
@[simp] theorem beginCycle_key : (s.beginCycle op).key = s.key := by simp [State.beginCycle, timerDecay_eq]
@[simp] theorem beginCycle_opcode : (s.beginCycle op).opcode = op := by simp [State.beginCycle, timerDecay_eq]
@[simp] theorem beginCycle_drawFlag : (s.beginCycle op).drawFlag = false := by simp [State.beginCycle, timerDecay_eq]
@[simp] theorem beginCycle_cycleCounter : (s.beginCycle op).cycleCounter = s.cycleCounter + 1 := by
  simp [State.beginCycle, timerDecay_eq]
@[simp] theorem beginCycle_delayTimer : (s.beginCycle op).delayTimer =
    if s.cycleCounter + 1 = 0 then decTimer s.delayTimer else s.delayTimer := by
  rw [State.beginCycle, timerDecay_eq]
  rfl
@[simp] theorem beginCycle_soundTimer : (s.beginCycle op).soundTimer =
    if s.cycleCounter + 1 = 0 then decTimer s.soundTimer else s.soundTimer := by
  rw [State.beginCycle, timerDecay_eq]
  rfl
@[simp] theorem beginCycle_status : (s.beginCycle op).status = s.status := by simp [State.beginCycle, timerDecay_eq]
@[simp] theorem beginCycle_rngDraws : (s.beginCycle op).rngDraws = s.rngDraws := by
  simp [State.beginCycle, timerDecay_eq]
@[simp] theorem beginCycle_getV (r : Nibble) : (s.beginCycle op).getV r = s.getV r := by simp [State.getV]
@[simp] theorem beginCycle_readMem (a : Nat) : (s.beginCycle op).readMem a = s.readMem a := by simp [State.readMem]
@[simp] theorem beginCycle_keyDown (k : Nat) : (s.beginCycle op).keyDown k = s.keyDown k := by simp [State.keyDown]
end

/-- A timer after steps 1 to 3, in numbers. -/
theorem toNat_decayed (c : BitVec 3) (b : Byte) :
    (if c + 1 = 0 then decTimer b else b).toNat = b.toNat - (if c.toNat = 7 then 1 else 0) := by
  by_cases h : c + 1 = 0
  · rw [if_pos h, if_pos ((counter_wraps_iff c).1 h), toNat_decTimer]
  · rw [if_neg h, if_neg fun h' => h ((counter_wraps_iff c).2 h')]
    rfl

/-- The fetch succeeds exactly when pc + 1 ≤ 0xFFF, with the big-endian word at pc. -/
theorem fetchWord_eq (s : State) :
    s.fetchWord = if s.pc.toNat + 1 < 4096 then
      some (wordOfBytes (s.readMem s.pc.toNat) (s.readMem (s.pc.toNat + 1))) else none := by
  unfold State.fetchWord
  have h := spanInRange_iff s.pc.toNat 2
  by_cases hs : s.pc.toNat + 1 < 4096
  · rw [if_pos hs, if_pos (h.2 (by omega))]
  · rw [if_neg hs, if_neg fun h' => by have := h.1 h'; omega]

theorem fetchWord_of_lt {s : State} (h : s.pc.toNat + 1 < 4096) :
    s.fetchWord = some (wordOfBytes (s.readMem s.pc.toNat) (s.readMem (s.pc.toNat + 1))) := by
  rw [fetchWord_eq, if_pos h]

theorem fetchWord_of_ge {s : State} (h : 4096 ≤ s.pc.toNat + 1) : s.fetchWord = none := by
  rw [fetchWord_eq, if_neg (by omega)]

/-! ### Step 4 over all instructions -/

/-- The fields step 4 may change, by what the instruction is; every other field is as before. -/
theorem exec_keeps (i : Instr) (s t : State) (h : exec i s = .next t) :
    t.key = s.key ∧ t.opcode = s.opcode ∧ t.cycleCounter = s.cycleCounter := by
  cases i <;> simp only [exec] at h
  case ret =>
    rcases popReturn_cases s with ⟨_, e⟩ | ⟨_, e⟩ <;> rw [execRet, e] at h <;> cases h <;> simp
  case call nnn =>
    rcases callTo_cases (zextAddr nnn) s with ⟨_, e⟩ | ⟨_, e⟩ <;> rw [execCall, e] at h <;> cases h <;> simp
  case drw x y n =>
    rcases drawAt_cases (s.getV x).toNat (s.getV y).toNat n.toNat s with ⟨_, _, e⟩ | ⟨_, _, e⟩ | ⟨_, e⟩ <;>
      rw [execDrw, e] at h <;> cases h <;> simp
  case skp x =>
    rcases withKeyIndex_cases x s (fun k => s.skipIf (s.keyDown k)) with ⟨_, e⟩ | ⟨_, e⟩ <;>
      rw [execSkp, e] at h <;> cases h <;> simp [skipIf_eq]
  case sknp x =>
    rcases withKeyIndex_cases x s (fun k => s.skipIf (!s.keyDown k)) with ⟨_, e⟩ | ⟨_, e⟩ <;>
      rw [execSknp, e] at h <;> cases h <;> simp [skipIf_eq]
  case ldBVx x =>
    rcases storeBytes_cases (s.dataAddr 0) (bcdDigits (s.getV x)) s with ⟨_, e⟩ | ⟨_, _, e⟩ <;>
      rw [execLdBVx, e] at h <;> cases h <;> simp
  case ldMemVx x =>
    rcases storeBytes_cases (s.dataAddr 0) (s.regsUpTo x) s with ⟨_, e⟩ | ⟨_, _, e⟩ <;>
      rw [execLdMemVx, e] at h <;> cases h <;> simp
  case ldVxMem x =>
    unfold execLdVxMem at h
    split at h <;> cases h <;> simp
  case ldVxK x =>
    unfold execLdVxK at h
    split at h <;> cases h <;> simp [State.rewind]
  all_goals
    cases h
    simp [skipIf_eq, State.setFlagThen, State.advanceRng]

/-- Step 4 always answers a next state: no instruction is refused, and a fault is a state (R241). -/
theorem exec_answers_next (i : Instr) (s : State) : ∃ t, exec i s = .next t := by
  cases i <;> simp only [exec]
  case ret => rcases popReturn_cases s with ⟨_, e⟩ | ⟨_, e⟩ <;> exact ⟨_, e⟩
  case call nnn => rcases callTo_cases (zextAddr nnn) s with ⟨_, e⟩ | ⟨_, e⟩ <;> exact ⟨_, e⟩
  case drw x y n =>
    rcases drawAt_cases (s.getV x).toNat (s.getV y).toNat n.toNat s with ⟨_, _, e⟩ | ⟨_, _, e⟩ | ⟨_, e⟩ <;>
      exact ⟨_, e⟩
  case skp x => rcases withKeyIndex_cases x s (fun k => s.skipIf (s.keyDown k)) with ⟨_, e⟩ | ⟨_, e⟩ <;> exact ⟨_, e⟩
  case sknp x =>
    rcases withKeyIndex_cases x s (fun k => s.skipIf (!s.keyDown k)) with ⟨_, e⟩ | ⟨_, e⟩ <;> exact ⟨_, e⟩
  case ldBVx x =>
    rcases storeBytes_cases (s.dataAddr 0) (bcdDigits (s.getV x)) s with ⟨_, e⟩ | ⟨_, _, e⟩ <;> exact ⟨_, e⟩
  case ldMemVx x =>
    rcases storeBytes_cases (s.dataAddr 0) (s.regsUpTo x) s with ⟨_, e⟩ | ⟨_, _, e⟩ <;> exact ⟨_, e⟩
  case ldVxMem x => unfold execLdVxMem; split <;> exact ⟨_, rfl⟩
  case ldVxK x => unfold execLdVxK; split <;> exact ⟨_, rfl⟩
  all_goals exact ⟨_, rfl⟩

/-- What one step can do: nothing on a faulted core, a fetch fault, an undefined word's no-op, or step 4 of the
decoded instruction after steps 1 to 3. -/
theorem step_cases (s t : State) (h : step s = .next t) :
    (s.status ≠ .running ∧ t = s) ∨
    (s.status = .running ∧ s.fetchWord = none ∧ raiseFetchFault s = .next t) ∨
    (∃ op u, s.status = .running ∧ s.fetchWord = some op ∧ decode op = .undef u ∧ t = s.beginCycle op) ∨
    (∃ op i, s.status = .running ∧ s.fetchWord = some op ∧ decode op = .instr i ∧
      exec i (s.beginCycle op) = .next t) := by
  unfold step doCycle at h
  split at h
  · rename_i hr
    unfold runCycle at h
    split at h
    · rename_i op hop
      unfold execDecoded at h
      split at h
      · rename_i i hi
        exact .inr (.inr (.inr ⟨op, i, hr, hop, hi, h⟩))
      · rename_i u hu
        cases h
        exact .inr (.inr (.inl ⟨op, u, hr, hop, hu, rfl⟩))
    · rename_i hop
      exact .inr (.inl ⟨hr, hop, h⟩)
  · rename_i hf
    cases h
    exact .inl ⟨by simp [hf], rfl⟩

end Sys2Proof.Machine
end

