-- ==== Sys2Proof/Laws/Frame.lean ====
section
/-! SUPPORT. Frames of the updates, in the words of Safety.lean, and how they compose. -/

namespace Sys2Proof.Machine

theorem UnchangedExcept.refl (fs : List Field) (s : State) : UnchangedExcept fs s s := by
  intro f _
  cases f <;> simp [Field.agrees]

theorem UnchangedExcept.mono {fs gs : List Field} {s t : State} (h : UnchangedExcept fs s t)
    (hsub : ∀ f ∈ fs, f ∈ gs) : UnchangedExcept gs s t := fun f hf => h f fun hf' => hf (hsub f hf')

theorem UnchangedExcept.trans {fs : List Field} {s t u : State} (h : UnchangedExcept fs s t)
    (h' : UnchangedExcept fs t u) : UnchangedExcept fs s u := by
  intro f hf
  have h1 := h f hf
  have h2 := h' f hf
  cases f <;> simp_all [Field.agrees]

section
variable (s : State)

theorem unchanged_setPc (a : Word) : UnchangedExcept [.pc] s (s.setPc a) := by
  intro f hf; cases f <;> simp_all [Field.agrees]
theorem unchanged_setI (a : Word) : UnchangedExcept [.I] s (s.setI a) := by
  intro f hf; cases f <;> simp_all [Field.agrees]
theorem unchanged_setStack (st : Vector Word 16) : UnchangedExcept [.stack] s (s.setStack st) := by
  intro f hf; cases f <;> simp_all [Field.agrees]
theorem unchanged_setSp (n : Fin 17) : UnchangedExcept [.sp] s (s.setSp n) := by
  intro f hf; cases f <;> simp_all [Field.agrees]
theorem unchanged_setDelayTimer (b : Byte) : UnchangedExcept [.delayTimer] s (s.setDelayTimer b) := by
  intro f hf; cases f <;> simp_all [Field.agrees]
theorem unchanged_setSoundTimer (b : Byte) : UnchangedExcept [.soundTimer] s (s.setSoundTimer b) := by
  intro f hf; cases f <;> simp_all [Field.agrees]
theorem unchanged_setMem (m : Memory) : UnchangedExcept [.mem] s (s.setMem m) := by
  intro f hf; cases f <;> simp_all [Field.agrees]
theorem unchanged_setGraphic (g : Framebuffer) : UnchangedExcept [.graphic] s (s.setGraphic g) := by
  intro f hf; cases f <;> simp_all [Field.agrees]
theorem unchanged_setKey (k : Vector Bool 16) : UnchangedExcept [.key] s (s.setKey k) := by
  intro f hf; cases f <;> simp_all [Field.agrees]
theorem unchanged_setDrawFlag (b : Bool) : UnchangedExcept [.drawFlag] s (s.setDrawFlag b) := by
  intro f hf; cases f <;> simp_all [Field.agrees]
theorem unchanged_setStatus (st : Status) : UnchangedExcept [.status] s (s.setStatus st) := by
  intro f hf; cases f <;> simp_all [Field.agrees]
theorem unchanged_setRngDraws (n : Nat) : UnchangedExcept [.rngDraws] s (s.setRngDraws n) := by
  intro f hf; cases f <;> simp_all [Field.agrees]
theorem unchanged_setRegs (v : Vector Byte 16) : UnchangedExcept [.v] s (s.setRegs v) := by
  intro f hf; cases f <;> simp_all [Field.agrees]
theorem unchanged_setV (x : Nibble) (b : Byte) : UnchangedExcept [.v] s (s.setV x b) := unchanged_setRegs s _

/-- A register write leaves the other registers. -/
theorem regs_setV (x : Nibble) (b : Byte) : RegsUnchangedExcept [x] s (s.setV x b) := fun r hr =>
  getV_setV_ne s b (by simpa using hr)

/-- A flag and result write leaves the registers but VF and the destination, and every other field. -/
theorem regs_setFlagThen (flag result : Byte) (x : Nibble) :
    RegsUnchangedExcept [x, VF] s (s.setFlagThen flag x result) := by
  intro r hr
  rw [getV_setFlagThen, if_neg (by simp_all), if_neg (by simp_all)]

theorem unchanged_setFlagThen (flag result : Byte) (x : Nibble) :
    UnchangedExcept [.v] s (s.setFlagThen flag x result) := by
  obtain ⟨v, hv⟩ := setFlagThen_eq_setRegs s flag result x
  rw [hv]
  exact unchanged_setRegs s v

/-- A state stopped by `raiseFault` is `StoppedBy` that fault. -/
theorem stoppedBy_raiseFault (code : Fault) : StoppedBy code s (s.setStatus (.faulted code (s.pc - 2) s.opcode)) :=
  ⟨rfl, unchanged_setStatus s _⟩

end

/-! ### What each instruction may write -/

/-- The fields step 4 of an instruction may write, `status` where it may fault (10_state R36, 60_exceptions R242). -/
def mayWrite : Instr → List Field
  | .sys _ => []
  | .cls => [.graphic, .drawFlag]
  | .ret => [.sp, .pc, .status]
  | .jp _ => [.pc]
  | .call _ => [.stack, .sp, .pc, .status]
  | .seImm _ _ => [.pc]
  | .sneImm _ _ => [.pc]
  | .seReg _ _ _ => [.pc]
  | .ldImm _ _ => [.v]
  | .addImm _ _ => [.v]
  | .ldReg _ _ => [.v]
  | .orReg _ _ => [.v]
  | .andReg _ _ => [.v]
  | .xorReg _ _ => [.v]
  | .addReg _ _ => [.v]
  | .sub _ _ => [.v]
  | .shr _ _ => [.v]
  | .subn _ _ => [.v]
  | .shl _ _ => [.v]
  | .sneReg _ _ _ => [.pc]
  | .ldI _ => [.I]
  | .jpV0 _ => [.pc]
  | .rnd _ _ => [.v, .rngDraws]
  | .drw _ _ _ => [.v, .graphic, .drawFlag, .status]
  | .skp _ => [.pc, .status]
  | .sknp _ => [.pc, .status]
  | .ldVxDt _ => [.v]
  | .ldVxK _ => [.v, .pc]
  | .ldDtVx _ => [.delayTimer]
  | .ldStVx _ => [.soundTimer]
  | .addIVx _ => [.I]
  | .ldFVx _ => [.I]
  | .ldBVx _ => [.mem, .status]
  | .ldMemVx _ => [.mem, .status]
  | .ldVxMem _ => [.v, .status]

/-- Step 4 writes no other field: the frame of every instruction at once. -/
theorem exec_unchangedExcept_mayWrite (i : Instr) (s t : State) (h : exec i s = .next t) :
    UnchangedExcept (mayWrite i) s t := by
  have ofSub {fs : List Field} {u : State} (hu : UnchangedExcept fs s u) (hsub : ∀ f ∈ fs, f ∈ mayWrite i) :
      UnchangedExcept (mayWrite i) s u := hu.mono hsub
  have stopped (c : Fault) (hs : Field.status ∈ mayWrite i) (e : raiseFault c s = .next t) :
      UnchangedExcept (mayWrite i) s t := by
    rw [raiseFault_eq] at e
    cases e
    exact ofSub (unchanged_setStatus s _) (by simpa using hs)
  cases i <;> simp only [exec] at h
  case ret =>
    rcases popReturn_cases s with ⟨_, e⟩ | ⟨_, e⟩ <;> rw [execRet, e] at h
    · cases h
      exact (ofSub (unchanged_setSp s _) (by simp [mayWrite])).trans ((unchanged_setPc _ _).mono (by simp [mayWrite]))
    · exact stopped _ (by simp [mayWrite]) h
  case call nnn =>
    rcases callTo_cases (zextAddr nnn) s with ⟨_, e⟩ | ⟨_, e⟩ <;> rw [execCall, e] at h
    · cases h
      exact ((ofSub (unchanged_setStack s _) (by simp [mayWrite])).trans
        ((unchanged_setSp _ _).mono (by simp [mayWrite]))).trans ((unchanged_setPc _ _).mono (by simp [mayWrite]))
    · exact stopped _ (by simp [mayWrite]) h
  case drw x y n =>
    rcases drawAt_cases (s.getV x).toNat (s.getV y).toNat n.toNat s with ⟨_, _, e⟩ | ⟨_, _, e⟩ | ⟨_, e⟩ <;>
      rw [execDrw, e] at h
    · cases h
      exact ((ofSub (unchanged_setGraphic s _) (by simp [mayWrite])).trans
        ((unchanged_setV _ _ _).mono (by simp [mayWrite]))).trans ((unchanged_setDrawFlag _ _).mono (by simp [mayWrite]))
    · exact stopped _ (by simp [mayWrite]) h
    · exact stopped _ (by simp [mayWrite]) h
  case skp x =>
    rcases withKeyIndex_cases x s (fun k => s.skipIf (s.keyDown k)) with ⟨_, e⟩ | ⟨_, e⟩ <;> rw [execSkp, e] at h
    · cases h
      rw [skipIf_eq]
      exact ofSub (unchanged_setPc s _) (by simp [mayWrite])
    · exact stopped _ (by simp [mayWrite]) h
  case sknp x =>
    rcases withKeyIndex_cases x s (fun k => s.skipIf (!s.keyDown k)) with ⟨_, e⟩ | ⟨_, e⟩ <;> rw [execSknp, e] at h
    · cases h
      rw [skipIf_eq]
      exact ofSub (unchanged_setPc s _) (by simp [mayWrite])
    · exact stopped _ (by simp [mayWrite]) h
  case ldBVx x =>
    rcases storeBytes_cases (s.dataAddr 0) (bcdDigits (s.getV x)) s with ⟨_, e⟩ | ⟨_, _, e⟩ <;>
      rw [execLdBVx, e] at h
    · cases h
      exact ofSub (unchanged_setMem s _) (by simp [mayWrite])
    · exact stopped _ (by simp [mayWrite]) h
  case ldMemVx x =>
    rcases storeBytes_cases (s.dataAddr 0) (s.regsUpTo x) s with ⟨_, e⟩ | ⟨_, _, e⟩ <;> rw [execLdMemVx, e] at h
    · cases h
      exact ofSub (unchanged_setMem s _) (by simp [mayWrite])
    · exact stopped _ (by simp [mayWrite]) h
  case ldVxMem x =>
    unfold execLdVxMem at h
    split at h
    · cases h
      exact ofSub (unchanged_setRegs s _) (by simp [mayWrite])
    · exact stopped _ (by simp [mayWrite]) h
  case ldVxK x =>
    unfold execLdVxK at h
    split at h <;> cases h
    · exact ofSub (unchanged_setV s _ _) (by simp [mayWrite])
    · exact ofSub (unchanged_setPc s _) (by simp [mayWrite])
  case rnd x nn =>
    cases h
    exact (ofSub (unchanged_setV s _ _) (by simp [mayWrite])).trans ((unchanged_setRngDraws _ _).mono (by simp [mayWrite]))
  case cls =>
    cases h
    exact (ofSub (unchanged_setGraphic s _) (by simp [mayWrite])).trans
      ((unchanged_setDrawFlag _ _).mono (by simp [mayWrite]))
  case sys => cases h; exact .refl _ _
  case seImm => cases h; rw [skipIf_eq]; exact unchanged_setPc s _
  case sneImm => cases h; rw [skipIf_eq]; exact unchanged_setPc s _
  case seReg => cases h; rw [skipIf_eq]; exact unchanged_setPc s _
  case sneReg => cases h; rw [skipIf_eq]; exact unchanged_setPc s _
  case addReg => cases h; exact unchanged_setFlagThen s _ _ _
  case sub => cases h; exact unchanged_setFlagThen s _ _ _
  case shr => cases h; exact unchanged_setFlagThen s _ _ _
  case subn => cases h; exact unchanged_setFlagThen s _ _ _
  case shl => cases h; exact unchanged_setFlagThen s _ _ _
  case jp => cases h; exact unchanged_setPc s _
  case jpV0 => cases h; exact unchanged_setPc s _
  case ldI => cases h; exact unchanged_setI s _
  case addIVx => cases h; exact unchanged_setI s _
  case ldFVx => cases h; exact unchanged_setI s _
  case ldDtVx => cases h; exact unchanged_setDelayTimer s _
  case ldStVx => cases h; exact unchanged_setSoundTimer s _
  all_goals cases h; exact unchanged_setV s _ _

end Sys2Proof.Machine
end

