-- ==== Sys2Proof/Laws/PerInstr.lean ====
section
/-! SUPPORT. Per-instruction families. TableRow: an instruction's word agrees with the match of its row under the
row's mask (spec/opcode_table.json), and its bytes in memory are the word's, big-endian. -/

namespace Sys2Proof.Laws.TableRow

/-- The fixed bits of an instruction's row, as the row's mask and match give them: the family nibble, and the low
nibble or the low byte where the row fixes it. -/
def fixedBits (i : Instr) (w : Word) : Prop :=
  match i with
  | .sys _ => family w = 0x0#4
  | .cls => w = 0x00E0#16
  | .ret => w = 0x00EE#16
  | .jp _ => family w = 0x1#4
  | .call _ => family w = 0x2#4
  | .seImm _ _ => family w = 0x3#4
  | .sneImm _ _ => family w = 0x4#4
  | .seReg _ _ _ => family w = 0x5#4
  | .ldImm _ _ => family w = 0x6#4
  | .addImm _ _ => family w = 0x7#4
  | .ldReg _ _ => family w = 0x8#4 ∧ fieldN w = 0x0#4
  | .orReg _ _ => family w = 0x8#4 ∧ fieldN w = 0x1#4
  | .andReg _ _ => family w = 0x8#4 ∧ fieldN w = 0x2#4
  | .xorReg _ _ => family w = 0x8#4 ∧ fieldN w = 0x3#4
  | .addReg _ _ => family w = 0x8#4 ∧ fieldN w = 0x4#4
  | .sub _ _ => family w = 0x8#4 ∧ fieldN w = 0x5#4
  | .shr _ _ => family w = 0x8#4 ∧ fieldN w = 0x6#4
  | .subn _ _ => family w = 0x8#4 ∧ fieldN w = 0x7#4
  | .shl _ _ => family w = 0x8#4 ∧ fieldN w = 0xE#4
  | .sneReg _ _ _ => family w = 0x9#4
  | .ldI _ => family w = 0xA#4
  | .jpV0 _ => family w = 0xB#4
  | .rnd _ _ => family w = 0xC#4
  | .drw _ _ _ => family w = 0xD#4
  | .skp _ => family w = 0xE#4 ∧ fieldNN w = 0x9E#8
  | .sknp _ => family w = 0xE#4 ∧ fieldNN w = 0xA1#8
  | .ldVxDt _ => family w = 0xF#4 ∧ fieldNN w = 0x07#8
  | .ldVxK _ => family w = 0xF#4 ∧ fieldNN w = 0x0A#8
  | .ldDtVx _ => family w = 0xF#4 ∧ fieldNN w = 0x15#8
  | .ldStVx _ => family w = 0xF#4 ∧ fieldNN w = 0x18#8
  | .addIVx _ => family w = 0xF#4 ∧ fieldNN w = 0x1E#8
  | .ldFVx _ => family w = 0xF#4 ∧ fieldNN w = 0x29#8
  | .ldBVx _ => family w = 0xF#4 ∧ fieldNN w = 0x33#8
  | .ldMemVx _ => family w = 0xF#4 ∧ fieldNN w = 0x55#8
  | .ldVxMem _ => family w = 0xF#4 ∧ fieldNN w = 0x65#8

/-- The family's statement about one instruction. -/
def Statement (i : Instr) : Prop := fixedBits i (encode i)

theorem sys (nnn : Addr12) : Statement (.sys nnn) := by simp [Statement, fixedBits, encode]
theorem cls : Statement (.cls) := by simp [Statement, fixedBits, encode]
theorem ret : Statement (.ret) := by simp [Statement, fixedBits, encode]
theorem jp (nnn : Addr12) : Statement (.jp nnn) := by simp [Statement, fixedBits, encode]
theorem call (nnn : Addr12) : Statement (.call nnn) := by simp [Statement, fixedBits, encode]
theorem seImm (x : Nibble) (nn : Byte) : Statement (.seImm x nn) := by simp [Statement, fixedBits, encode]
theorem sneImm (x : Nibble) (nn : Byte) : Statement (.sneImm x nn) := by simp [Statement, fixedBits, encode]
theorem seReg (x : Nibble) (y : Nibble) (s : Nibble) : Statement (.seReg x y s) := by simp [Statement, fixedBits, encode]
theorem ldImm (x : Nibble) (nn : Byte) : Statement (.ldImm x nn) := by simp [Statement, fixedBits, encode]
theorem addImm (x : Nibble) (nn : Byte) : Statement (.addImm x nn) := by simp [Statement, fixedBits, encode]
theorem ldReg (x : Nibble) (y : Nibble) : Statement (.ldReg x y) := by simp [Statement, fixedBits, encode]
theorem orReg (x : Nibble) (y : Nibble) : Statement (.orReg x y) := by simp [Statement, fixedBits, encode]
theorem andReg (x : Nibble) (y : Nibble) : Statement (.andReg x y) := by simp [Statement, fixedBits, encode]
theorem xorReg (x : Nibble) (y : Nibble) : Statement (.xorReg x y) := by simp [Statement, fixedBits, encode]
theorem addReg (x : Nibble) (y : Nibble) : Statement (.addReg x y) := by simp [Statement, fixedBits, encode]
theorem sub (x : Nibble) (y : Nibble) : Statement (.sub x y) := by simp [Statement, fixedBits, encode]
theorem shr (x : Nibble) (y : Nibble) : Statement (.shr x y) := by simp [Statement, fixedBits, encode]
theorem subn (x : Nibble) (y : Nibble) : Statement (.subn x y) := by simp [Statement, fixedBits, encode]
theorem shl (x : Nibble) (y : Nibble) : Statement (.shl x y) := by simp [Statement, fixedBits, encode]
theorem sneReg (x : Nibble) (y : Nibble) (s : Nibble) : Statement (.sneReg x y s) := by simp [Statement, fixedBits, encode]
theorem ldI (nnn : Addr12) : Statement (.ldI nnn) := by simp [Statement, fixedBits, encode]
theorem jpV0 (nnn : Addr12) : Statement (.jpV0 nnn) := by simp [Statement, fixedBits, encode]
theorem rnd (x : Nibble) (nn : Byte) : Statement (.rnd x nn) := by simp [Statement, fixedBits, encode]
theorem drw (x : Nibble) (y : Nibble) (n : Nibble) : Statement (.drw x y n) := by simp [Statement, fixedBits, encode]
theorem skp (x : Nibble) : Statement (.skp x) := by simp [Statement, fixedBits, encode]
theorem sknp (x : Nibble) : Statement (.sknp x) := by simp [Statement, fixedBits, encode]
theorem ldVxDt (x : Nibble) : Statement (.ldVxDt x) := by simp [Statement, fixedBits, encode]
theorem ldVxK (x : Nibble) : Statement (.ldVxK x) := by simp [Statement, fixedBits, encode]
theorem ldDtVx (x : Nibble) : Statement (.ldDtVx x) := by simp [Statement, fixedBits, encode]
theorem ldStVx (x : Nibble) : Statement (.ldStVx x) := by simp [Statement, fixedBits, encode]
theorem addIVx (x : Nibble) : Statement (.addIVx x) := by simp [Statement, fixedBits, encode]
theorem ldFVx (x : Nibble) : Statement (.ldFVx x) := by simp [Statement, fixedBits, encode]
theorem ldBVx (x : Nibble) : Statement (.ldBVx x) := by simp [Statement, fixedBits, encode]
theorem ldMemVx (x : Nibble) : Statement (.ldMemVx x) := by simp [Statement, fixedBits, encode]
theorem ldVxMem (x : Nibble) : Statement (.ldVxMem x) := by simp [Statement, fixedBits, encode]

end Sys2Proof.Laws.TableRow
end

