-- ==== Sys2Proof/Laws/Runs.lean ====
section
/-! SUPPORT. What one move of a run can do, and the induction along a run. -/

namespace Sys2Proof.Machine

@[simp] theorem Run.state_zero (r : Run) : r.state 0 = r.start := rfl

@[simp] theorem Run.state_succ (r : Run) (k : Nat) : r.state (k + 1) = moveOrStay (r.moves.get k) (r.state k) := rfl

@[simp] theorem moveOrStay_some (op : HostOp) (s : State) : moveOrStay (some op) s = afterMove op s := rfl

@[simp] theorem moveOrStay_none (s : State) : moveOrStay none s = s := rfl

@[simp] theorem Moves.get_infinite (ops : Nat → HostOp) (k : Nat) : (Moves.infinite ops).get k = some (ops k) := rfl

@[simp] theorem Moves.get_finite (ops : List HostOp) (k : Nat) : (Moves.finite ops).get k = ops[k]? := rfl

/-- What holds at state `k` of a run and is kept by every move the run makes from there holds from `k` on. -/
theorem Run.induction {r : Run} {k : Nat} {Q : HostOp → Prop} {P : State → Prop} (hm : r.MovesFrom k Q)
    (h : P (r.state k)) (keep : ∀ op s, Q op → P s → P (afterMove op s)) : ∀ j ≥ k, P (r.state j) := by
  intro j hj
  induction j, hj using Nat.le_induction with
  | base => exact h
  | succ j hj ih =>
    rw [Run.state_succ]
    cases hg : r.moves.get j with
    | none => exact ih
    | some op => exact keep op _ (hm j hj op hg) ih

/-- A finite run's states are those of `runMoves`. -/
theorem Run.state_finite (s : State) (ops : List HostOp) (k : Nat) :
    Run.state ⟨s, .finite ops⟩ k = runMoves (ops.take k) s := by
  induction k with
  | zero => simp [runMoves]
  | succ k ih =>
    rw [Run.state_succ, ih, List.take_add_one]
    cases h : ops[k]? <;> simp [runMoves, h]

theorem noKeyDown_iff (s : State) : s.noKeyDown = true ↔ ∀ k < 16, s.keyDown k = false := by
  rw [State.noKeyDown, Option.isNone_iff_eq_none, firstKey_eq_none]

/-- A host call that keeps the program is a step, a key load, a flag clear, or nothing. -/
theorem afterMove_cases (op : HostOp) (s : State) (h : op.KeepsProgram) :
    (op = .doCycle ∧ step s = .next (afterMove op s)) ∨
    (∃ keys, op = .loadKey keys ∧ (afterMove op s = s.setKey (keys.map fun b => b == 1#8) ∨ afterMove op s = s)) ∨
    afterMove op s = s.setDrawFlag false ∨ afterMove op s = s := by
  cases op with
  | initializeCore font => exact absurd rfl (h.1 font)
  | loadProgram bytes => exact absurd rfl (h.2 bytes)
  | loadKey keys =>
    refine .inr (.inl ⟨keys, rfl, ?_⟩)
    by_cases hk : (keys.all fun b => b == 0#8 || b == 1#8) = true
    · exact .inl (by simp only [afterMove, hostMove, loadKey, if_pos hk])
    · exact .inr (by simp only [afterMove, hostMove, loadKey, if_neg hk])
  | doCycle =>
    cases e : step s with
    | next t => exact .inl ⟨rfl, by simp only [afterMove, hostMove, e]⟩
    | fault f => exact .inr (.inr (.inr (by simp only [afterMove, hostMove, e])))
    | refused f => exact .inr (.inr (.inr (by simp only [afterMove, hostMove, e])))
  | clearDrawFlag => exact .inr (.inr (.inl rfl))
  | loadScreen => exact .inr (.inr (.inr rfl))
  | readDrawFlag => exact .inr (.inr (.inr rfl))
  | snapshot => exact .inr (.inr (.inr rfl))
  | soundLevel => exact .inr (.inr (.inr rfl))

/-- `loadProgram` writes memory, or is refused. -/
theorem afterMove_loadProgram (bytes : List Byte) (s : State) :
    afterMove (.loadProgram bytes) s = s.setMem (Memory.writeList s.mem Config.programBase bytes) ∨
    afterMove (.loadProgram bytes) s = s := by
  by_cases hl : bytes.length > Config.maxProgramLen
  · exact .inr (by simp only [afterMove, hostMove, loadProgram, if_pos hl])
  · exact .inl (by simp only [afterMove, hostMove, loadProgram, if_neg hl])

end Sys2Proof.Machine
end

