-- ==== Sys2Proof/Tests/Slice0.lean ====
section
/-! SUPPORT. Tests. Expected results are the vectors of spec/95_test_vectors.md (their ids stand beside each test) and
words written out from spec/opcode_table.json. The last part shows, for each statement with hypotheses, a state and
operands that meet them, at boundary values. -/

namespace Sys2Proof.Tests

open Sys2Proof Sys2Proof.Machine

/-! ### Helpers -/

/-- The state after one step. -/
def after (s : State) : State :=
  match step s with
  | .next t => t
  | .fault _ => s
  | .refused _ => s

/-- The state after one step of the word `w` placed at pc. -/
def ran (s : State) (w : Word) : State := after (s.placeAtFetch w)

/-- The reset state with the registers listed. -/
def regs (l : List (Nibble × Byte)) : State := l.foldl (fun s p => s.setV p.1 p.2) State.reset

/-- `s` with the bytes `bs` at `a`. -/
def bytesAt (s : State) (a : Nat) (bs : List Byte) : State := s.setMem (Memory.writeList s.mem a bs)

/-- `s` with the keys listed pressed. -/
def keysDown (s : State) (ks : List Nat) : State := s.setKey (Vector.ofFn fun k => ks.contains k.val)

/-- `s` with the cells listed set. -/
def cellsOn (s : State) (ks : List Nat) : State := s.setGraphic (ks.foldl (fun g k => xorPixel g k true) s.graphic)

/-- The cells of `ks` that are 1. -/
def lit (s : State) (ks : List Nat) : List Bool := ks.map (pixel s.graphic)

/-- The bytes of memory at `a`, `a + 1`, … -/
def peek (s : State) (a n : Nat) : List Byte := (List.range n).map fun k => s.readMem (a + k)

/-! ### Well-formed terms: the two words SYS does not have -/

theorem test_wf_sys_refuses_cls : (Instr.sys 0x0E0#12).wf = false := by decide
theorem test_wf_sys_refuses_ret : (Instr.sys 0x0EE#12).wf = false := by decide
theorem test_wf_sys_accepts_others : (Instr.sys 0x1E0#12).wf = true ∧ (Instr.sys 0x0E1#12).wf = true := by decide

/-! ### Decoding: one word of every row, bit by bit, a digit a row of the table's pattern -/

theorem test_decode_flow :
    decode 0b0000_0001_0010_0011#16 = .instr (.sys 0x123#12) ∧
    decode 0b0000_0000_1110_0000#16 = .instr .cls ∧
    decode 0b0000_0000_1110_1110#16 = .instr .ret ∧
    decode 0b0001_1010_1011_1100#16 = .instr (.jp 0xABC#12) ∧
    decode 0b0010_0011_0000_0001#16 = .instr (.call 0x301#12) ∧
    decode 0b0011_0001_0000_0101#16 = .instr (.seImm 0x1#4 0x05#8) ∧
    decode 0b0100_0010_0001_0001#16 = .instr (.sneImm 0x2#4 0x11#8) ∧
    decode 0b0101_1010_1011_0111#16 = .instr (.seReg 0xA#4 0xB#4 0x7#4) ∧
    decode 0b1001_1010_1011_0011#16 = .instr (.sneReg 0xA#4 0xB#4 0x3#4) ∧
    decode 0b1011_0011_0000_1000#16 = .instr (.jpV0 0x308#12) := by decide

theorem test_decode_arith :
    decode 0b0110_0001_0000_0101#16 = .instr (.ldImm 0x1#4 0x05#8) ∧
    decode 0b0111_1000_1111_0001#16 = .instr (.addImm 0x8#4 0xF1#8) ∧
    decode 0b1000_0001_0010_0000#16 = .instr (.ldReg 0x1#4 0x2#4) ∧
    decode 0b1000_0001_0010_0001#16 = .instr (.orReg 0x1#4 0x2#4) ∧
    decode 0b1000_0001_0010_0010#16 = .instr (.andReg 0x1#4 0x2#4) ∧
    decode 0b1000_0001_0010_0011#16 = .instr (.xorReg 0x1#4 0x2#4) ∧
    decode 0b1000_0001_0010_0100#16 = .instr (.addReg 0x1#4 0x2#4) ∧
    decode 0b1000_0001_0010_0101#16 = .instr (.sub 0x1#4 0x2#4) ∧
    decode 0b1000_0001_0010_0110#16 = .instr (.shr 0x1#4 0x2#4) ∧
    decode 0b1000_0001_0010_0111#16 = .instr (.subn 0x1#4 0x2#4) ∧
    decode 0b1000_0001_0010_1110#16 = .instr (.shl 0x1#4 0x2#4) := by decide

theorem test_decode_memory :
    decode 0b1010_0011_0000_0010#16 = .instr (.ldI 0x302#12) ∧
    decode 0b1100_0011_0000_1111#16 = .instr (.rnd 0x3#4 0x0F#8) ∧
    decode 0b1111_0010_0001_1110#16 = .instr (.addIVx 0x2#4) ∧
    decode 0b1111_0011_0010_1001#16 = .instr (.ldFVx 0x3#4) ∧
    decode 0b1111_0100_0011_0011#16 = .instr (.ldBVx 0x4#4) ∧
    decode 0b1111_0101_0101_0101#16 = .instr (.ldMemVx 0x5#4) ∧
    decode 0b1111_1010_0110_0101#16 = .instr (.ldVxMem 0xA#4) := by decide

theorem test_decode_devices :
    decode 0b1101_0001_0010_0101#16 = .instr (.drw 0x1#4 0x2#4 0x5#4) ∧
    decode 0b1110_1010_1001_1110#16 = .instr (.skp 0xA#4) ∧
    decode 0b1110_1010_1010_0001#16 = .instr (.sknp 0xA#4) ∧
    decode 0b1111_0001_0000_0111#16 = .instr (.ldVxDt 0x1#4) ∧
    decode 0b1111_1010_0000_1010#16 = .instr (.ldVxK 0xA#4) ∧
    decode 0b1111_0000_0001_0101#16 = .instr (.ldDtVx 0x0#4) ∧
    decode 0b1111_0010_0001_1000#16 = .instr (.ldStVx 0x2#4) := by decide

/-- L2.8: SYS words next to CLS and RET, and the undefined words. -/
theorem test_decode_neighbours :
    decode 0x00E1#16 = .instr (.sys 0x0E1#12) ∧ decode 0x0000#16 = .instr (.sys 0x000#12) ∧
    decode 0x01E0#16 = .instr (.sys 0x1E0#12) ∧
    [0x8AB8#16, 0x8AB9#16, 0x8ABA#16, 0x8ABB#16, 0x8ABC#16, 0x8ABD#16, 0x8ABF#16].map decode =
      List.replicate 7 (.undef .undef8) ∧
    [0xEA9F#16, 0xEB00#16].map decode = List.replicate 2 (.undef .undefE) ∧
    [0xFA0B#16, 0xFA56#16, 0xF000#16].map decode = List.replicate 3 (.undef .undefF) := by decide

/-- 20_memory R54: the first byte is the more significant; the bytes after the instruction are left. -/
theorem test_decodeBytes : decodeBytes [0x12#8, 0x34#8, 0x56#8] = .ok (.instr (.jp 0x234#12), [0x56#8]) := by decide
theorem test_decodeBytes_truncated : decodeBytes [0x12#8] = .error .truncated := by decide
theorem test_encodeBytes : encodeBytes (.jp 0x234#12) = [0x12#8, 0x34#8] := by decide
theorem test_decodeTableWord :
    decodeTableWord 16 0x1234 = some (.jp 0x234#12) ∧ decodeTableWord 16 0x8128 = none := by decide

/-- R78 and the listings of L3. -/
theorem test_spelling : spelling (.addReg 0x0#4 0x1#4) = "8014" ∧ assembly (.seImm 0x0#4 0x00#8) = "SE V0, 0x00" ∧
    assembly (.ldVxMem 0x2#4) = "LD V2, [I]" := by decide +kernel

/-- The host's placing: `withFetchWord` at reset, and step runs it (L1-2). -/
theorem test_withFetchWord : (after (State.reset.withFetchWord 16 0x1234)).pc = 0x234#16 := by decide

/-! ### Control flow (L2.1) -/

/-- L2-CF1. -/
theorem test_sys : (ran State.reset 0x0123).pc = 0x202#16 := by decide
/-- L2-CF5: 01E0 is SYS, not CLS. -/
theorem test_sys_01E0 : (lit (ran (cellsOn State.reset [5]) 0x01E0) [5], (ran State.reset 0x01E0).drawFlag) = ([true], false) := by
  decide +kernel
/-- L2-CF3. -/
theorem test_cls : (lit (ran (cellsOn State.reset [5, 2047]) 0x00E0) [5, 2047], (ran State.reset 0x00E0).drawFlag) =
    ([false, false], true) := by decide +kernel
/-- L2-CF6. -/
theorem test_ret : let t := ran ((State.reset.setSp 1).setStack (State.reset.stack.set 0 0x206#16)) 0x00EE
    t.sp = 0 ∧ t.pc = 0x206#16 ∧ t.stack[0] = 0x206#16 := by decide
/-- L2-CF7. -/
theorem test_ret_underflow : let t := ran State.reset 0x00EE
    t.status = .faulted .stackUnderflow 0x200#16 0x00EE#16 ∧ t.sp = 0 ∧ t.pc = 0x202#16 ∧ t.cycleCounter = 1#3 := by decide
/-- L1-2, L2-CF11: the last address a fetch may use. -/
theorem test_jp : (ran (State.reset.setPc 0xFFE#16) 0x1234).pc = 0x234#16 := by decide
/-- L2-CF10: a jump to 0xFFF faults at the next fetch. -/
theorem test_jp_fff : let t := after (ran State.reset 0x1FFF)
    t.status = .faulted .fetchOutOfRange 0xFFF#16 0x1FFF#16 ∧ t.pc = 0xFFF#16 ∧ t.cycleCounter = 1#3 := by decide
/-- L2-CF8. -/
theorem test_call : let t := ran (State.reset.setPc 0x208#16) 0x2300
    t.stack[0] = 0x20A#16 ∧ t.sp = 1 ∧ t.pc = 0x300#16 := by decide
/-- L2-CF9. -/
theorem test_call_overflow : let t := ran (State.reset.setSp 16) 0x2300
    t.status = .faulted .stackOverflow 0x200#16 0x2300#16 ∧ t.sp = 16 ∧ t.stack = State.reset.stack ∧
    t.pc = 0x202#16 := by decide
/-- L2-CF13, L2-CF14. -/
theorem test_seImm : (ran (regs [(1, 0x05)]) 0x3105).pc = 0x204#16 ∧ (ran (regs [(1, 0x06)]) 0x3105).pc = 0x202#16 := by decide
/-- L2-CF15, L2-CF16. -/
theorem test_sneImm : (ran (regs [(2, 0x10)]) 0x4211).pc = 0x204#16 ∧ (ran (regs [(2, 0x11)]) 0x4211).pc = 0x202#16 := by
  decide
/-- L2-CF18: the low nibble is ignored. -/
theorem test_seReg : (ran (regs [(1, 7), (2, 7)]) 0x5125).pc = 0x204#16 := by decide
/-- L2-CF20, L2-CF21. -/
theorem test_sneReg : (ran (regs [(1, 7), (2, 8)]) 0x9120).pc = 0x204#16 ∧
    (ran (regs [(1, 7), (2, 7)]) 0x9121).pc = 0x202#16 := by decide
/-- L2-CF24: V0, not V3. -/
theorem test_jpV0 : (ran (regs [(0, 0x01), (3, 0xFF)]) 0xB300).pc = 0x301#16 := by decide
/-- L2-CF23. -/
theorem test_jpV0_unmasked : let t := ran (regs [(0, 0xFF)]) 0xBFFF
    t.pc = 0x10FE#16 ∧ (after t).status = .faulted .fetchOutOfRange 0x10FE#16 0xBFFF#16 := by decide

/-! ### Registers and arithmetic (L2.2, L2.3) -/

/-- L2-A1, at an odd pc (L2-CF12). -/
theorem test_ldImm : let t := ran (State.reset.setPc 0x201#16) 0x6105
    t.getV 1 = 0x05#8 ∧ t.pc = 0x203#16 := by decide
/-- L2-A4: no carry flag. -/
theorem test_addImm : let t := ran (regs [(1, 0xFF)]) 0x7101
    t.getV 1 = 0x00#8 ∧ t.getV VF = 0#8 := by decide
/-- L2-F10. -/
theorem test_addImm_vf : (ran (regs [(VF, 0xFF)]) 0x7F01).getV VF = 0#8 := by decide
/-- L2-A5. -/
theorem test_ldReg : (ran (regs [(2, 0x33)]) 0x8120).getV 1 = 0x33#8 := by decide
/-- L2-A6. -/
theorem test_orReg : let t := ran (regs [(1, 0x0C), (2, 0x0A), (VF, 9)]) 0x8121
    t.getV 1 = 0x0E#8 ∧ t.getV VF = 9#8 := by decide
/-- L2-A7. -/
theorem test_andReg : (ran (regs [(1, 0x0C), (2, 0x0A)]) 0x8122).getV 1 = 0x08#8 := by decide
/-- L2-A8, L2-A9. -/
theorem test_xorReg : (ran (regs [(1, 0x0C), (2, 0x0A)]) 0x8123).getV 1 = 0x06#8 ∧
    (ran (regs [(1, 0x5A)]) 0x8113).getV 1 = 0#8 := by decide
/-- L2-A10, L2-A11: sums of exactly 256 and 255. -/
theorem test_addReg : let t := ran (regs [(1, 0x80), (2, 0x80)]) 0x8124
    t.getV 1 = 0#8 ∧ t.getV VF = 1#8 ∧ (ran (regs [(1, 0xFF), (2, 0)]) 0x8124).getV VF = 0#8 := by decide
/-- L2-F2, L2-F3: VF as operand and as destination. -/
theorem test_addReg_vf : let t := ran (regs [(1, 0xF0), (VF, 0x20)]) 0x81F4
    t.getV 1 = 0x10#8 ∧ t.getV VF = 1#8 ∧ (ran (regs [(VF, 0x80)]) 0x8FF4).getV VF = 0#8 := by decide
/-- L1-5, L2-A13. -/
theorem test_sub : let t := ran (regs [(0, 0x01), (1, 0x02)]) 0x8015
    t.getV 0 = 0xFF#8 ∧ t.getV VF = 0#8 ∧ (ran (regs [(1, 5), (2, 5)]) 0x8125).getV VF = 1#8 := by decide
/-- L2-F4, L2-F5. -/
theorem test_sub_vf : let t := ran (regs [(1, 5), (VF, 3)]) 0x81F5
    t.getV 1 = 2#8 ∧ t.getV VF = 1#8 ∧ (ran (regs [(VF, 5), (0xE, 3)]) 0x8FE5).getV VF = 2#8 := by decide
/-- L2-A19: V[Y] is not used. -/
theorem test_shr : let t := ran (regs [(1, 0xFE), (2, 0x01)]) 0x8126
    t.getV 1 = 0x7F#8 ∧ t.getV VF = 0#8 ∧ t.getV 2 = 0x01#8 := by decide
/-- L2-F7. -/
theorem test_shr_vf : (ran (regs [(VF, 5)]) 0x8FF6).getV VF = 0x02#8 := by decide
/-- L2-A15, L2-A16. -/
theorem test_subn : let t := ran (regs [(1, 0x02), (2, 0x01)]) 0x8127
    t.getV 1 = 0xFF#8 ∧ t.getV VF = 0#8 ∧ (ran (regs [(1, 0x01), (2, 0x10)]) 0x8127).getV 1 = 0x0F#8 := by decide
/-- L2-F9. -/
theorem test_subn_vf : (ran (regs [(VF, 0x10), (0xE, 0x30)]) 0x8FE7).getV VF = 0x20#8 := by decide
/-- L2-A22. -/
theorem test_shl : let t := ran (regs [(1, 0x7F), (2, 0xFF)]) 0x812E
    t.getV 1 = 0xFE#8 ∧ t.getV VF = 0#8 := by decide
/-- L2-A21, L2-F8. -/
theorem test_shl_out : (ran (regs [(1, 0x81)]) 0x812E).getV VF = 1#8 ∧ (ran (regs [(VF, 0x41)]) 0x8FFE).getV VF = 0x82#8 := by
  decide
/-- L2-A26: the draw does not matter. -/
theorem test_rnd : (ran (regs [(3, 0x77)]) 0xC300).getV 3 = 0x00#8 := by
  show Config.rng 0 &&& 0#8 = 0#8
  simp
/-- L2-A24, L2-K14, L2-K15: undefined words only advance pc. -/
theorem test_undefined : (ran (regs [(1, 3), (2, 4)]) 0x8128).v = (regs [(1, 3), (2, 4)]).v ∧
    [0x8128#16, 0xE0FF#16, 0xF0FF#16].map (fun w => (ran State.reset w).pc) = List.replicate 3 0x202#16 := by decide

/-! ### Index register and memory transfer (L2.4) -/

/-- L2-M1. -/
theorem test_ldI : (ran State.reset 0xA300).I = 0x300#16 := by decide
/-- L2-M3, L2-M4. -/
theorem test_addIVx : (ran ((regs [(1, 1)]).setI 0xFFF#16) 0xF11E).I = 0x1000#16 ∧
    (ran ((regs [(1, 2)]).setI 0xFFFF#16) 0xF11E).I = 0x0001#16 := by decide
/-- L2-M6, L2-M7. -/
theorem test_ldFVx : (ran (regs [(1, 0x0F)]) 0xF129).I = 0x09B#16 ∧ (ran (regs [(1, 0xFF)]) 0xF129).I = 0x54B#16 := by decide
/-- L1-6, L2-M11. -/
theorem test_ldBVx : peek (ran ((regs [(0, 234)]).setI 0x300#16) 0xF033) 0x300 3 = [2#8, 3#8, 4#8] ∧
    peek (ran ((regs [(3, 255)]).setI 0xFFD#16) 0xF333) 0xFFD 3 = [2#8, 5#8, 5#8] := by decide +kernel
/-- L2-M12. -/
theorem test_ldBVx_fault : let t := ran ((regs [(3, 255)]).setI 0xFFE#16) 0xF333
    t.status = .faulted .writeOutOfRange 0x200#16 0xF333#16 ∧ t.pc = 0x202#16 ∧ peek t 0xFFE 2 = [0#8, 0#8] := by
  decide +kernel
/-- L2-M13. -/
theorem test_ldMemVx : let t := ran ((regs [(0, 1), (1, 2), (2, 3), (3, 4)]).setI 0x400#16) 0xF255
    peek t 0x400 4 = [1#8, 2#8, 3#8, 0#8] ∧ t.I = 0x400#16 := by decide +kernel
/-- L2-M15. -/
theorem test_ldMemVx_fault : (ran (State.reset.setI 0xFF1#16) 0xFF55).status =
    .faulted .writeOutOfRange 0x200#16 0xFF55#16 := by decide +kernel
/-- L2-M17, L2-M20. -/
theorem test_ldVxMem : let t := ran ((bytesAt State.reset 0x300 [2, 3, 4, 5]).setI 0x300#16) 0xF265
    [t.getV 0, t.getV 1, t.getV 2, t.getV 3] = [2#8, 3#8, 4#8, 0#8] ∧ t.I = 0x300#16 := by decide +kernel
/-- L2-M19. -/
theorem test_ldVxMem_fault : (ran (State.reset.setI 0xFF1#16) 0xFF65).status =
    .faulted .readOutOfRange 0x200#16 0xFF65#16 := by decide +kernel

/-! ### Display (L2.5) -/

/-- L2-DR3: a partial collision; L2-DR5: the spill into the next row; L2-DR13: coordinates from the old VF; L2-DR9:
N = 0. -/
theorem test_drw :
    (let t := ran (cellsOn ((bytesAt State.reset 0x300 [0xC0]).setI 0x300#16) [1, 5]) 0xD011
     lit t [0, 1, 5] = [true, false, true] ∧ t.getV VF = 1#8 ∧ t.drawFlag = true) ∧
    lit (ran ((bytesAt (regs [(0, 60)]) 0x300 [0xFF]).setI 0x300#16) 0xD011) [59, 60, 63, 64, 67, 68] =
      [false, true, true, true, true, false] ∧
    lit (ran ((bytesAt (regs [(VF, 2)]) 0x300 [0x80]).setI 0x300#16) 0xDFF1) [130] = [true] ∧
    (let t := ran (regs [(VF, 7)]) 0xD010
     t.getV VF = 0#8 ∧ t.drawFlag = true ∧ t.graphic = 0#2048) := by decide +kernel
/-- L2-DR8: a box past the last cell; L2-DR12: the read fault comes first. -/
theorem test_drw_faults :
    (let t := ran ((bytesAt (regs [(0, 57), (1, 31), (VF, 9)]) 0x300 [0x80]).setI 0x300#16) 0xD011
     t.status = .faulted .framebufferOutOfRange 0x200#16 0xD011#16 ∧ t.getV VF = 9#8 ∧ t.graphic = 0#2048) ∧
    (ran ((regs [(0, 57), (1, 31)]).setI 0xFFF#16) 0xD012).status =
      .faulted .readOutOfRange 0x200#16 0xD012#16 := by decide +kernel

/-! ### Input and timers (L2.6) -/

/-- L2-K1, L2-K2. -/
theorem test_skp : (ran (keysDown (regs [(3, 7)]) [7]) 0xE39E).pc = 0x204#16 ∧ (ran (regs [(3, 7)]) 0xE39E).pc = 0x202#16 := by
  decide
/-- L2-K5. -/
theorem test_skp_fault : (ran (regs [(3, 16)]) 0xE39E).status = .faulted .keyIndexOutOfRange 0x200#16 0xE39E#16 := by decide
/-- L2-K3, L2-K4. -/
theorem test_sknp : (ran (keysDown (regs [(3, 7)]) [7]) 0xE3A1).pc = 0x202#16 ∧ (ran (regs [(3, 7)]) 0xE3A1).pc = 0x204#16 := by
  decide
/-- L2-K6. -/
theorem test_sknp_fault : (ran (regs [(3, 0xFF)]) 0xE3A1).status = .faulted .keyIndexOutOfRange 0x200#16 0xE3A1#16 := by
  decide
/-- L2-K7. -/
theorem test_ldVxK : let t := ran (keysDown State.reset [7, 9]) 0xF30A
    t.getV 3 = 7#8 ∧ t.pc = 0x202#16 := by decide
/-- L2-K8. -/
theorem test_ldVxK_blocks :
    let t := ran ((((State.reset.setCycleCounter 7).setDelayTimer 5).setSoundTimer 1).setDrawFlag true) 0xF30A
    t.pc = 0x200#16 ∧ t.getV 3 = 0#8 ∧ t.delayTimer = 4#8 ∧ t.soundTimer = 0#8 ∧ t.cycleCounter = 0#3 ∧
    t.drawFlag = false := by decide
/-- L2-K9, L2-K10. -/
theorem test_ldVxDt : (ran ((State.reset.setCycleCounter 7).setDelayTimer 0x21) 0xF107).getV 1 = 0x20#8 ∧
    (ran (State.reset.setDelayTimer 0x21) 0xF107).getV 1 = 0x21#8 := by decide
/-- L2-K11. -/
theorem test_ldDtVx : (ran ((regs [(0, 3)]).setCycleCounter 7) 0xF015).delayTimer = 3#8 := by decide
/-- L2-K12. -/
theorem test_ldStVx : let t := ran (regs [(2, 0x10)]) 0xF218
    t.soundTimer = 0x10#8 ∧ t.soundActive = true := by decide

/-! ### Cycle, faulted state, host calls (L2.7) -/

/-- L2-E2. -/
theorem test_faulted : let s := ((State.reset.setStatus (.faulted .stackOverflow 0x300 0)).setCycleCounter 3).setDelayTimer 5
    after s = s := by decide +kernel
/-- L1-1: the ends of the font. -/
theorem test_font : let t := initializeCore Config.defaultFont (State.reset.setPc 0x300#16)
    peek t 0x050 5 = [0xF0#8, 0x90#8, 0x90#8, 0x90#8, 0xF0#8] ∧ peek t 0x09B 6 = [0xF0#8, 0x80#8, 0xF0#8, 0x80#8, 0x80#8, 0#8] ∧
    t.pc = 0x200#16 := by decide +kernel
/-- L2-E9: the loaded idle loop is fetched. -/
theorem test_launch : (after (afterMove (.loadProgram [0x12, 0x00]) State.reset)).pc = 0x200#16 := by decide
/-- R258: a finite run from a launch, at the idle loop of L2-E9 after its one step. -/
theorem test_run :
    let s := initializeCore Config.defaultFont State.reset
    let r : Run := ⟨afterMove (.loadProgram [0x12, 0x00]) s, .finite [.doCycle]⟩
    r.FromLaunch ∧ r.EndsAt 1 :=
  ⟨⟨Config.defaultFont, [0x12, 0x00], State.reset, rfl⟩,
    by decide +kernel, .inl ⟨0x200#12, by decide +kernel, by decide +kernel⟩⟩
/-- L2-E7. -/
theorem test_load_error (s : State) : hostReply (.loadProgram (List.replicate 0xE01 0#8)) s = .rejected .loadError := by
  simp only [hostReply, loadProgram, List.length_replicate]
  rfl
/-- L2-E4. -/
theorem test_loadKey : let s := State.reset.setStatus (.faulted .stackOverflow 0x300 0)
    let t := afterMove (.loadKey ((Vector.replicate 16 0#8).set 1 1#8)) s
    t.keyDown 1 = true ∧ t.keyDown 0 = false ∧ t.status = s.status := by decide +kernel

/-! ### Witnesses: hypotheses of the statements met, by the statement's name -/

/-- A word fetched that decodes to another instruction. -/
theorem not_nextInstr {s : State} {w : Word} {i j : Instr} (hf : s.fetchWord = some w) (hd : decode w = .instr j)
    (hne : j ≠ i) : ¬ NextInstr s i := by
  rintro ⟨_, w', hf', hd'⟩
  rw [hf] at hf'
  cases hf'
  rw [hd] at hd'
  exact hne (by simpa using hd')

theorem witness_DecodeEncodeRoundTrip : (Instr.sys 0x0E1#12).wf = true ∧ (Instr.sys 0xFFF#12).wf = true ∧
    (Instr.drw 0xF#4 0xF#4 0xF#4).wf = true := by decide

theorem witness_EncodeInvertsDecode : decode 0x5AB7#16 = .instr (.seReg 0xA#4 0xB#4 0x7#4) ∧
    decode 0x0FFF#16 = .instr (.sys 0xFFF#12) := by decide

/-- Words that meet each row's mask and match, the fields at their largest: the `DecodesAs` clauses. -/
theorem witness_DecodesAs :
    (0x1FFF#16 &&& 0xF000#16 = 0x1000#16 ∧ 0x2FFF#16 &&& 0xF000#16 = 0x2000#16 ∧ 0x3FFF#16 &&& 0xF000#16 = 0x3000#16 ∧
     0x4FFF#16 &&& 0xF000#16 = 0x4000#16 ∧ 0x5FFF#16 &&& 0xF000#16 = 0x5000#16 ∧ 0x6FFF#16 &&& 0xF000#16 = 0x6000#16 ∧
     0x7FFF#16 &&& 0xF000#16 = 0x7000#16 ∧ 0x9FFF#16 &&& 0xF000#16 = 0x9000#16 ∧ 0xAFFF#16 &&& 0xF000#16 = 0xA000#16 ∧
     0xBFFF#16 &&& 0xF000#16 = 0xB000#16 ∧ 0xCFFF#16 &&& 0xF000#16 = 0xC000#16 ∧ 0xDFFF#16 &&& 0xF000#16 = 0xD000#16) ∧
    (0x8FF0#16 &&& 0xF00F#16 = 0x8000#16 ∧ 0x8FF1#16 &&& 0xF00F#16 = 0x8001#16 ∧ 0x8FF2#16 &&& 0xF00F#16 = 0x8002#16 ∧
     0x8FF3#16 &&& 0xF00F#16 = 0x8003#16 ∧ 0x8FF4#16 &&& 0xF00F#16 = 0x8004#16 ∧ 0x8FF5#16 &&& 0xF00F#16 = 0x8005#16 ∧
     0x8FF6#16 &&& 0xF00F#16 = 0x8006#16 ∧ 0x8FF7#16 &&& 0xF00F#16 = 0x8007#16 ∧ 0x8FFE#16 &&& 0xF00F#16 = 0x800E#16) ∧
    (0xEF9E#16 &&& 0xF0FF#16 = 0xE09E#16 ∧ 0xEFA1#16 &&& 0xF0FF#16 = 0xE0A1#16 ∧ 0xFF07#16 &&& 0xF0FF#16 = 0xF007#16 ∧
     0xFF0A#16 &&& 0xF0FF#16 = 0xF00A#16 ∧ 0xFF15#16 &&& 0xF0FF#16 = 0xF015#16 ∧ 0xFF18#16 &&& 0xF0FF#16 = 0xF018#16 ∧
     0xFF1E#16 &&& 0xF0FF#16 = 0xF01E#16 ∧ 0xFF29#16 &&& 0xF0FF#16 = 0xF029#16 ∧ 0xFF33#16 &&& 0xF0FF#16 = 0xF033#16 ∧
     0xFF55#16 &&& 0xF0FF#16 = 0xF055#16 ∧ 0xFF65#16 &&& 0xF0FF#16 = 0xF065#16) := by decide

/-- The last state a word can be fetched in, with the word `w` there. -/
def atTop (w : Word) : State := (State.reset.setPc 0xFFE#16).placeAtFetch w

/-- The reset state with the word `w` at pc. -/
def fetching (w : Word) : State := State.reset.placeAtFetch w

theorem witness_UndefinedWordsAreNoOps :
    (family 0x0FFF#16 = 0x0#4 ∧ 0x0FFF#16 ≠ 0x00E0#16 ∧ 0x0FFF#16 ≠ 0x00EE#16) ∧
    (atTop 0x8FFF#16).status = .running ∧ (atTop 0x8FFF#16).fetchWord = some 0x8FFF#16 ∧
    decode 0x8FFF#16 = .undef .undef8 ∧ decode 0xE09F#16 = .undef .undefE ∧ decode 0xF066#16 = .undef .undefF := by decide

theorem witness_StepRunsDecodedInstruction : (atTop 0x1234#16).status = .running ∧
    (atTop 0x1234#16).fetchWord = some 0x1234#16 ∧ decode 0x1234#16 = .instr (.jp 0x234#12) := by decide

theorem witness_FetchReadsBigEndian :
    (State.reset.setPc 0xFFE#16).pc.toNat + 1 ≤ 0xFFF ∧ 0xFFF < (State.reset.setPc 0xFFF#16).pc.toNat + 1 := by decide

theorem witness_FetchFaultChangesOnlyStatus :
    (State.reset.setPc 0xFFF#16).status = .running ∧ 0xFFF < (State.reset.setPc 0xFFF#16).pc.toNat + 1 ∧
    0xFFF < (State.reset.setPc 0xFFFF#16).pc.toNat + 1 := by decide

theorem witness_FaultedCoreIsFrozen : (State.reset.setStatus (.faulted .keyIndexOutOfRange 0xFFFF#16 0xFFFF#16)).status =
    .faulted .keyIndexOutOfRange 0xFFFF#16 0xFFFF#16 := by decide

/-- A draw, a clear and a draw that faults. -/
theorem witness_DrawFlagTellsDrawOrClear :
    ((atTop 0xD010#16).status = .running ∧ (atTop 0xD010#16).fetchWord = some 0xD010#16 ∧
      step (atTop 0xD010#16) = .next (after (atTop 0xD010#16))) ∧
    ((fetching 0x00E0#16).fetchWord = some 0x00E0#16 ∧ step (fetching 0x00E0#16) = .next (after (fetching 0x00E0#16))) ∧
    ((fetching 0xD011#16).setI 0x1000#16).fetchWord = some 0xD011#16 ∧
      (after ((fetching 0xD011#16).setI 0x1000#16)).status = .faulted .readOutOfRange 0x200#16 0xD011#16 :=
  ⟨⟨by decide, by decide, rfl⟩, ⟨by decide, rfl⟩, by decide, by decide +kernel⟩

theorem witness_TimersAfterCycle : let s := (fetching 0xF315#16).setCycleCounter 7
    s.status = .running ∧ s.fetchWord = some 0xF315#16 ∧ step s = .next (after s) ∧
    decode 0xF315#16 = .instr (.ldDtVx 3#4) ∧ (∀ x, decode 0xF315#16 ≠ .instr (.ldStVx x)) ∧
    decode 0xFF18#16 = .instr (.ldStVx 0xF#4) ∧ (∀ x, decode 0xFF18#16 ≠ .instr (.ldDtVx x)) :=
  ⟨by decide, by decide, rfl, by decide, by decide, by decide, by decide⟩

theorem witness_EightDecaysDecrementOnce :
    7 < 8 - State.reset.cycleCounter.toNat ∧ 0 < 8 - (State.reset.setCycleCounter 7).cycleCounter.toNat := by decide

/-- The infinite run of `doCycle` calls from `s`. -/
def cycling (s : State) : Run := ⟨s, .infinite fun _ => .doCycle⟩

/-- What holds of `doCycle` holds of every move of that run. -/
theorem cycling_moves (s : State) (P : HostOp → Prop) (h : P .doCycle) : (cycling s).MovesFrom 0 P := by
  intro j _ op hop
  cases hop
  exact h

theorem doCycle_keepsProgram : HostOp.KeepsProgram .doCycle := ⟨by simp, by simp⟩

/-- L3-P4 with no key: an infinite run at a blocked FX0A. -/
theorem witness_NoStepWritesKeys : step (fetching 0xF30A#16) = .next (after (fetching 0xF30A#16)) ∧
    (let r := cycling (fetching 0xF30A#16)
     NextInstr (r.state 0) (.ldVxK 3#4) ∧ (∀ i < 16, (r.state 0).keyDown i = false) ∧
     r.MovesFrom 0 (fun op => op.KeepsProgram ∧ op.PressesNoKey) ∧ r.moves = .infinite (fun _ => .doCycle) ∧
     ∀ j < 0, ¬ AtIdleLoop (r.state j)) :=
  ⟨rfl, ⟨by decide, 0xF30A#16, by decide, by decide⟩, by decide,
    cycling_moves _ _ ⟨doCycle_keepsProgram, by simp [HostOp.PressesNoKey]⟩, rfl, by simp⟩

theorem witness_OnlyStoresWriteMemory : step (fetching 0xFF65#16) = .next (after (fetching 0xFF65#16)) ∧
    ∀ x, ¬ NextInstr (fetching 0xFF65#16) (.ldBVx x) ∧ ¬ NextInstr (fetching 0xFF65#16) (.ldMemVx x) :=
  ⟨rfl, fun _ => ⟨not_nextInstr (w := 0xFF65#16) (j := .ldVxMem 0xF#4) (by decide) (by decide) (by simp),
    not_nextInstr (w := 0xFF65#16) (j := .ldVxMem 0xF#4) (by decide) (by decide) (by simp)⟩⟩

/-- FX55 is in the scope of both clauses. -/
theorem witness_WritersOfFramebufferAndIndex : let s := fetching 0xF055#16
    step s = .next (after s) ∧ ¬ NextInstr s .cls ∧ (∀ x y n, ¬ NextInstr s (.drw x y n)) ∧
    (∀ nnn, ¬ NextInstr s (.ldI nnn)) ∧ (∀ x, ¬ NextInstr s (.addIVx x) ∧ ¬ NextInstr s (.ldFVx x)) := by
  have hf : (fetching 0xF055#16).fetchWord = some 0xF055#16 := by decide
  have hd : decode 0xF055#16 = .instr (.ldMemVx 0#4) := by decide
  exact ⟨rfl, not_nextInstr hf hd (by simp), fun _ _ _ => not_nextInstr hf hd (by simp),
    fun _ => not_nextInstr hf hd (by simp), fun _ => ⟨not_nextInstr hf hd (by simp), not_nextInstr hf hd (by simp)⟩⟩

theorem witness_OnlyCallAndReturnTouchStack : let s := fetching 0x1234#16
    step s = .next (after s) ∧ (∀ nnn, ¬ NextInstr s (.call nnn)) ∧ ¬ NextInstr s .ret ∧ 15 ≠ s.sp.val := by
  have hf : (fetching 0x1234#16).fetchWord = some 0x1234#16 := by decide
  have hd : decode 0x1234#16 = .instr (.jp 0x234#12) := by decide
  exact ⟨rfl, fun _ => not_nextInstr hf hd (by simp), not_nextInstr hf hd (by simp), by decide⟩

theorem witness_OnlyRndUsesRandomSource : let s := fetching 0x6105#16
    (∀ x nn, ¬ NextInstr s (.rnd x nn)) ∧ step s = .next (after s) :=
  ⟨fun _ _ => not_nextInstr (w := 0x6105#16) (j := .ldImm 1#4 5#8) (by decide) (by decide) (by simp), rfl⟩

theorem witness_ExecuteFaultsArePrecise : let s := atTop 0x00EE#16
    s.status = .running ∧ s.fetchWord = some 0x00EE#16 ∧ step s = .next (after s) ∧ (after s).status ≠ .running :=
  ⟨by decide, by decide, rfl, by decide⟩

/-- One state for each of the seven codes, each with the word that raises it and the least operands that do. -/
theorem witness_FaultCodesHaveTheirCauses :
    (after (State.reset.setPc 0xFFF#16)).status = .faulted .fetchOutOfRange 0xFFF#16 0#16 ∧
    (ran (State.reset.setI 0x1000#16) 0xF065#16).status = .faulted .readOutOfRange 0x200#16 0xF065#16 ∧
    (ran (State.reset.setI 0xFFF#16) 0xD012#16).status = .faulted .readOutOfRange 0x200#16 0xD012#16 ∧
    (ran (State.reset.setI 0xFFE#16) 0xF033#16).status = .faulted .writeOutOfRange 0x200#16 0xF033#16 ∧
    (ran (State.reset.setI 0xFFF#16) 0xF155#16).status = .faulted .writeOutOfRange 0x200#16 0xF155#16 ∧
    (ran (State.reset.setSp 16) 0x2300#16).status = .faulted .stackOverflow 0x200#16 0x2300#16 ∧
    (ran State.reset 0x00EE#16).status = .faulted .stackUnderflow 0x200#16 0x00EE#16 ∧
    (ran (regs [(0, 57), (1, 31)]) 0xD011#16).status = .faulted .framebufferOutOfRange 0x200#16 0xD011#16 ∧
    (ran (regs [(3, 16)]) 0xE3A1#16).status = .faulted .keyIndexOutOfRange 0x200#16 0xE3A1#16 := by decide +kernel

/-- A memory with an entry at each end and one inside the font, and a store to its top. -/
def someMemory : State := ((fetching 0xF055#16).setMem [(0, 1#8), (0x50, 0#8), (0x200, 0xF0#8), (0x201, 0x55#8), (0xFFF, 7#8)]).setI 0xFFF#16

theorem witness_StepKeepsMemoryCanonical : Memory.wf someMemory.mem ∧ step someMemory = .next (after someMemory) :=
  ⟨by decide, rfl⟩

/-- pc and a return address at their bounds. -/
def boundPc : State := (State.reset.setPc 0x10FE#16).setStack (State.reset.stack.set 15 0x1000#16)

theorem witness_StepKeepsPcInRange : PcInRange boundPc ∧ step boundPc = .next (after boundPc) :=
  ⟨⟨by decide, by decide⟩, rfl⟩

theorem witness_HostMovesKeepInvariants : Memory.wf someMemory.mem ∧ PcInRange someMemory ∧
    hostMove (.loadProgram [0x12#8, 0x00#8]) someMemory = .next (afterMove (.loadProgram [0x12#8, 0x00#8]) someMemory) :=
  ⟨by decide, ⟨by decide, by decide⟩, rfl⟩

theorem witness_SysIsNoOp : (0x0FFF#16 &&& 0xF000#16 = 0x0000#16 ∧ 0x0FFF#16 ≠ 0x00E0#16 ∧ 0x0FFF#16 ≠ 0x00EE#16) ∧
    NextInstr State.reset (.sys 0#12) :=
  ⟨by decide, by decide, 0#16, by decide, by decide⟩

theorem witness_RetPopsOrFaults : 0 < (State.reset.setSp 1).sp.val ∧ 0 < (State.reset.setSp 16).sp.val ∧
    State.reset.sp.val = 0 := by decide

/-- The idle loop of L2-E9. -/
theorem witness_JumpSetsPc : (fetching 0x1200#16).status = .running ∧ AtIdleLoop (fetching 0x1200#16) ∧
    (let r := cycling (fetching 0x1200#16)
     (r.state 0).status = .running ∧ AtIdleLoop (r.state 0) ∧ r.MovesFrom 0 HostOp.KeepsProgram) :=
  ⟨by decide, ⟨0x200#12, by decide, by decide⟩, by decide, ⟨0x200#12, by decide, by decide⟩,
    cycling_moves _ _ doCycle_keepsProgram⟩

theorem witness_CallPushesOrFaults : (State.reset.setSp 15).sp.val < 16 ∧ State.reset.sp.val < 16 ∧
    (State.reset.setSp 16).sp.val = 16 ∧ 14 ≠ (State.reset.setSp 15).sp.val := by decide

theorem witness_JumpWithOffset : 0xFFF ≤ (0xF00#12).toNat + ((regs [(0, 0xFF)]).getV 0#4).toNat := by decide

/-- The flag clauses of 8XY4 to 8XYE. -/
theorem witness_flag_clauses : (0xE#4 ≠ VF ∧ 0x0#4 ≠ VF) := by decide

theorem witness_GlyphAddressFindsFontBytes : let s := regs [(1, 0x0F)]
    (∀ j (h : j < 80), s.readMem (0x050 + j) = Config.defaultFont[j]) ∧ (s.getV 1).toNat ≤ 15 :=
  ⟨by decide +kernel, by decide⟩

theorem witness_BcdStoresDigits :
    (State.reset.setI 0xFFD#16).dataAddr 2 ≤ 0xFFF ∧ 0xFFF < (State.reset.setI 0xFFE#16).dataAddr 2 := by decide

theorem witness_RegisterDump : (State.reset.setI 0xFF0#16).dataAddr (0xF#4).toNat ≤ 0xFFF ∧
    0xFFF < (State.reset.setI 0xFF1#16).dataAddr (0xF#4).toNat := by decide

theorem witness_RegisterLoad : (State.reset.setI 0xFFF#16).dataAddr (0x0#4).toNat ≤ 0xFFF ∧
    0xFFF < (State.reset.setI 0x1000#16).dataAddr (0x0#4).toNat := by decide

/-- What an outcome carries. -/
def resultOf (r : Result) (s : State) : State :=
  match r with
  | .next t => t
  | .fault _ => s
  | .refused _ => s

/-- L1-7: the registers are cleared between. -/
theorem witness_DumpThenLoadRestores :
    let s := (regs [(0, 0x11), (1, 0x22), (2, 0x33)]).setI 0x400#16
    let t := resultOf (exec (.ldMemVx 2#4) s) s
    let u := t.setRegs (Vector.replicate 16 0#8)
    s.dataAddr (2#4).toNat ≤ 0xFFF ∧ exec (.ldMemVx 2#4) s = .next t ∧ u.I = s.I ∧ ∀ a, u.readMem a = t.readMem a :=
  ⟨by decide, rfl, rfl, fun _ => rfl⟩

/-- Stores that cover both fetched bytes, the first only, and the second only; and a load. -/
theorem witness_StoredBytesAreFetched :
    (let s := State.reset.setI 0x1FF#16
     s.dataAddr (2#4).toNat ≤ 0xFFF ∧ exec (.ldMemVx 2#4) s = .next (resultOf (exec (.ldMemVx 2#4) s) s) ∧
     s.pc.toNat + 1 ≤ 0xFFF ∧ s.pc.toNat + 0 = s.dataAddr (1#4).toNat ∧ s.pc.toNat + 1 = s.dataAddr (2#4).toNat) ∧
    (let s := State.reset.setI 0x200#16
     s.dataAddr (0#4).toNat ≤ 0xFFF ∧ exec (.ldMemVx 0#4) s = .next (resultOf (exec (.ldMemVx 0#4) s) s) ∧
     s.pc.toNat + 0 = s.dataAddr (0#4).toNat ∧ s.dataAddr (0#4).toNat < s.pc.toNat + 1) ∧
    (let s := State.reset.setI 0x1FF#16
     s.dataAddr 2 ≤ 0xFFF ∧ exec (.ldBVx 0#4) s = .next (resultOf (exec (.ldBVx 0#4) s) s) ∧
     s.pc.toNat + 0 = s.dataAddr 1 ∧ s.pc.toNat + 1 = s.dataAddr 2) ∧
    (let s := State.reset.setI 0x201#16
     s.dataAddr 2 ≤ 0xFFF ∧ exec (.ldBVx 0#4) s = .next (resultOf (exec (.ldBVx 0#4) s) s) ∧
     s.pc.toNat + 0 < s.dataAddr 0 ∧ s.pc.toNat + 1 = s.dataAddr 0) ∧
    (loadProgram [0x12#8] State.reset = .next (resultOf (loadProgram [0x12#8] State.reset) State.reset) ∧
     State.reset.pc.toNat + 1 ≤ 0xFFF ∧ 0 < [0x12#8].length ∧ State.reset.pc.toNat + 0 = 0x200 + 0 ∧
     0x200 + [0x12#8].length ≤ State.reset.pc.toNat + 1) :=
  ⟨⟨by decide, rfl, by decide, by decide, by decide⟩, ⟨by decide, rfl, by decide, by decide⟩,
    ⟨by decide, rfl, by decide, by decide⟩, ⟨by decide, rfl, by decide, by decide⟩, rfl, by decide, by decide, by decide,
    by decide⟩

/-- The last legal box (L2-DR7), with a sprite byte at 0xFFF and a cell it meets, or does not. -/
def lastBox : State := (bytesAt (regs [(0, 56), (1, 31)]) 0xFFF [0x81#8]).setI 0xFFF#16

theorem witness_DrawTogglesSprite :
    (∀ r < (1#4).toNat, lastBox.dataAddr r ≤ 0xFFF) ∧
    (∀ r < (1#4).toNat, ∀ c < 8, ((lastBox.getV 1#4).toNat + r) * 64 + ((lastBox.getV 0#4).toNat + c) < 2048) ∧
    (∃ r < (1#4).toNat, ∃ c < 8, pixel (cellsOn lastBox [2047]).graphic
        (((lastBox.getV 1#4).toNat + r) * 64 + ((lastBox.getV 0#4).toNat + c)) = true ∧
      (lastBox.readMem (lastBox.dataAddr r)).getLsbD (7 - c) = true) ∧
    (¬ ∃ r < (1#4).toNat, ∃ c < 8, pixel (cellsOn lastBox [2046]).graphic
        (((lastBox.getV 1#4).toNat + r) * 64 + ((lastBox.getV 0#4).toNat + c)) = true ∧
      (lastBox.readMem (lastBox.dataAddr r)).getLsbD (7 - c) = true) := by decide +kernel

theorem witness_DrawFaultsInOrder :
    (0 < (2#4).toNat ∧ 0xFFF < lastBox.dataAddr ((2#4).toNat - 1)) ∧
    (0 < (1#4).toNat ∧ lastBox.dataAddr ((1#4).toNat - 1) ≤ 0xFFF ∧
      2048 ≤ (((lastBox.setV 0#4 57#8).getV 1#4).toNat + (1#4).toNat - 1) * 64 +
        ((lastBox.setV 0#4 57#8).getV 0#4).toNat + 7) ∧
    ((lastBox.getV 1#4).toNat + (1#4).toNat - 1) * 64 + (lastBox.getV 0#4).toNat + 7 < 2048 ∧ (0#4).toNat = 0 := by
  decide +kernel

theorem witness_DrawTwiceErases : 0#4 ≠ VF ∧ 1#4 ≠ VF ∧ (∀ r < (1#4).toNat, lastBox.dataAddr r ≤ 0xFFF) ∧
    (∀ r < (1#4).toNat, ∀ c < 8, ((lastBox.getV 1#4).toNat + r) * 64 + ((lastBox.getV 0#4).toNat + c) < 2048) ∧
    exec (.drw 0#4 1#4 1#4) lastBox = .next (resultOf (exec (.drw 0#4 1#4 1#4) lastBox) lastBox) :=
  ⟨by decide, by decide, by decide +kernel, by decide +kernel, rfl⟩

theorem witness_KeySkips : ((regs [(3, 15)]).getV 3#4).toNat ≤ 15 ∧ 15 < ((regs [(3, 16)]).getV 3#4).toNat := by decide

theorem witness_KeyWaitBlocksOrStores :
    ((keysDown State.reset [15]).keyDown 15 = true ∧ ∀ j < 15, (keysDown State.reset [15]).keyDown j = false) ∧
    (∀ k < 16, State.reset.keyDown k = false) ∧
    (NextInstr (fetching 0xF30A#16) (.ldVxK 3#4) ∧ ∀ k < 16, (fetching 0xF30A#16).keyDown k = false) :=
  ⟨by decide, by decide, ⟨by decide, 0xF30A#16, by decide, by decide⟩, by decide⟩

theorem witness_TimerTransfers : NextInstr (fetching 0xF107#16) (.ldVxDt 1#4) ∧
    NextInstr (fetching 0xF015#16) (.ldDtVx 0#4) ∧ NextInstr (fetching 0xFF18#16) (.ldStVx 0xF#4) :=
  ⟨⟨by decide, 0xF107#16, by decide, by decide⟩, ⟨by decide, 0xF015#16, by decide, by decide⟩,
    ⟨by decide, 0xFF18#16, by decide, by decide⟩⟩

theorem witness_LoadProgramCopiesOrRefuses :
    (List.replicate 0xE00 0xAA#8).length ≤ 0xE00 ∧ 0xE00 < (List.replicate 0xE01 0xAA#8).length := by
  rw [List.length_replicate, List.length_replicate]
  decide

theorem witness_LoadKeyReplacesFlags :
    (let keys := (Vector.replicate 16 0#8).set 15 1#8
     ∀ k (h : k < 16), keys[k] = 0#8 ∨ keys[k] = 1#8) ∧
    (let keys := (Vector.replicate 16 0#8).set 15 2#8
     ∃ k, ∃ h : k < 16, keys[k] ≠ 0#8 ∧ keys[k] ≠ 1#8) := by
  refine ⟨by decide, 15, by decide, by decide, by decide⟩

theorem witness_HostLeavesCoreAlone :
    ((∀ font, HostOp.clearDrawFlag ≠ .initializeCore font) ∧ HostOp.clearDrawFlag ≠ .doCycle ∧
     (∀ bytes, HostOp.clearDrawFlag ≠ .loadProgram bytes) ∧ (∀ keys, HostOp.clearDrawFlag ≠ .loadKey keys) ∧
     hostMove .clearDrawFlag State.reset = .next (clearDrawFlag State.reset) ∧ HostOp.snapshot ≠ .clearDrawFlag) ∧
    ((State.reset.setDrawFlag true).status = .running ∧ (State.reset.setDrawFlag true).fetchWord ≠ none) :=
  ⟨⟨by simp, by simp, by simp, by simp, rfl, by simp⟩, by decide, by decide⟩

theorem witness_OnlyInitializeLeavesFaulted : let s := State.reset.setStatus (.faulted .stackOverflow 0x200#16 0x2200#16)
    s.status ≠ .running ∧ hostMove .doCycle s = .next s ∧
    hostMove (.initializeCore Config.defaultFont) s = .next (initializeCore Config.defaultFont s) ∧
    ((cycling s).state 0).status ≠ .running ∧ (cycling s).MovesFrom 0 (fun op => ∀ font, op ≠ .initializeCore font) :=
  ⟨by decide, rfl, rfl, by decide, cycling_moves _ _ (by simp)⟩

theorem witness_NothingRunsBeforeInitialize : ∀ font, HostOp.doCycle ≠ .initializeCore font := by simp

end Sys2Proof.Tests
end

section
/-! The frame of a whole step: which instructions write which field (10_state R36), and that a step writes no field
but those of its cycle and of its instruction. -/

namespace Sys2Proof.Machine

/-! ### The writers of each field -/

section
variable {i : Instr}

theorem mem_mem_mayWrite : .mem ∈ mayWrite i ↔ ∃ x, i = .ldBVx x ∨ i = .ldMemVx x := by
  cases i <;> simp [mayWrite]

theorem graphic_mem_mayWrite : .graphic ∈ mayWrite i ↔ i = .cls ∨ ∃ x y n, i = .drw x y n := by
  cases i <;> simp [mayWrite]

theorem drawFlag_mem_mayWrite : .drawFlag ∈ mayWrite i ↔ i = .cls ∨ ∃ x y n, i = .drw x y n := by
  cases i <;> simp [mayWrite]

theorem I_mem_mayWrite : .I ∈ mayWrite i ↔ (∃ nnn, i = .ldI nnn) ∨ ∃ x, i = .addIVx x ∨ i = .ldFVx x := by
  cases i <;> simp [mayWrite]

theorem stack_mem_mayWrite : .stack ∈ mayWrite i ↔ ∃ nnn, i = .call nnn := by
  cases i <;> simp [mayWrite]

theorem sp_mem_mayWrite : .sp ∈ mayWrite i ↔ (∃ nnn, i = .call nnn) ∨ i = .ret := by
  cases i <;> simp [mayWrite]

theorem delayTimer_mem_mayWrite : .delayTimer ∈ mayWrite i ↔ ∃ x, i = .ldDtVx x := by
  cases i <;> simp [mayWrite]

theorem soundTimer_mem_mayWrite : .soundTimer ∈ mayWrite i ↔ ∃ x, i = .ldStVx x := by
  cases i <;> simp [mayWrite]

theorem rngDraws_mem_mayWrite : .rngDraws ∈ mayWrite i ↔ ∃ x nn, i = .rnd x nn := by
  cases i <;> simp [mayWrite]

theorem key_not_mem_mayWrite : .key ∉ mayWrite i := by
  cases i <;> simp [mayWrite]

end

/-! ### One step, forwards -/

theorem step_of_not_running {s : State} (h : s.status ≠ .running) : step s = .next s := by
  unfold step doCycle
  split
  · contradiction
  · rfl

theorem step_of_fetchWord_none {s : State} (hr : s.status = .running) (hf : s.fetchWord = none) :
    step s = raiseFetchFault s := by
  simp only [step, doCycle, hr, runCycle, hf]

theorem step_of_fetchWord_some {s : State} {op : Word} (hr : s.status = .running) (hf : s.fetchWord = some op) :
    step s = execDecoded (decode op) (s.beginCycle op) := by
  simp only [step, doCycle, hr, runCycle, hf]

theorem step_of_decode {s : State} {op : Word} {i : Instr} (hr : s.status = .running) (hf : s.fetchWord = some op)
    (hd : decode op = .instr i) : step s = exec i (s.beginCycle op) := by
  rw [step_of_fetchWord_some hr hf, hd, execDecoded]

/-- A cycle that fetched is an undefined word's no-op, or step 4 of the decoded instruction. -/
theorem step_fetched_cases {s t : State} {op : Word} (hr : s.status = .running) (hf : s.fetchWord = some op)
    (h : step s = .next t) :
    (∃ u, decode op = .undef u ∧ t = s.beginCycle op) ∨
    (∃ i, decode op = .instr i ∧ exec i (s.beginCycle op) = .next t) := by
  rw [step_of_fetchWord_some hr hf] at h
  cases hd : decode op with
  | undef u =>
    rw [hd, execDecoded, execUndef] at h
    cases h
    exact .inl ⟨u, rfl, rfl⟩
  | instr i => exact .inr ⟨i, rfl, by rwa [hd, execDecoded] at h⟩

/-! ### The frame of a step -/

/-- The fields steps 1 to 3 of a cycle write (40_cycle_engine R102 to R104). -/
def beginFields : List Field := [.pc, .opcode, .drawFlag, .cycleCounter, .delayTimer, .soundTimer]

theorem unchanged_beginCycle (s : State) (op : Word) : UnchangedExcept beginFields s (s.beginCycle op) := by
  intro f hf
  cases f <;> simp_all [Field.agrees, beginFields]

/-- The frame of a step: it writes the fields of steps 1 to 3 and `status`, and those its instruction may write. -/
theorem step_unchangedExcept {s t : State} (h : step s = .next t) :
    UnchangedExcept (.status :: beginFields) s t ∨
    ∃ i, NextInstr s i ∧ UnchangedExcept (beginFields ++ mayWrite i) s t := by
  rcases step_cases s t h with ⟨_, rfl⟩ | ⟨_, _, hff⟩ | ⟨op, u, _, _, _, rfl⟩ | ⟨op, i, hr, hf, hd, he⟩
  · exact .inl (.refl _ _)
  · cases hff
    exact .inl ((unchanged_setStatus s _).mono (by simp))
  · exact .inl ((unchanged_beginCycle s op).mono (by simp +contextual))
  · exact .inr ⟨i, ⟨hr, op, hf, hd⟩, ((unchanged_beginCycle s op).mono (by simp +contextual)).trans
      ((exec_unchangedExcept_mayWrite i _ t he).mono (by simp +contextual))⟩

/-- A field outside the cycle's own is as before, unless the instruction executed may write it. -/
theorem step_agrees {s t : State} {f : Field} (h : step s = .next t) (hf : f ∉ .status :: beginFields)
    (hi : ∀ i, NextInstr s i → f ∉ mayWrite i) : f.agrees s t := by
  rcases step_unchangedExcept h with hk | ⟨i, hn, hk⟩
  · exact hk f hf
  · refine hk f fun hmem => ?_
    rcases List.mem_append.1 hmem with hb | hw
    · exact hf (List.mem_cons_of_mem _ hb)
    · exact hi i hn hw

/-! ### The settled statements -/

/-- Settles O15: a step's frame, and FX33 and FX55 are the only writers of memory. -/
theorem onlyStoresWriteMemory : Obligations.OnlyStoresWriteMemory := by
  intro s t h hno
  refine step_agrees (f := .mem) h (by decide) fun i hi hw => ?_
  obtain ⟨x, rfl | rfl⟩ := mem_mem_mayWrite.1 hw
  · exact (hno x).1 hi
  · exact (hno x).2 hi

/-- Settles O16: a step's frame, for the framebuffer and for I. -/
theorem writersOfFramebufferAndIndex : Obligations.WritersOfFramebufferAndIndex := by
  intro s t h
  constructor
  · intro hcls hdrw
    refine step_agrees (f := .graphic) h (by decide) fun i hi hw => ?_
    obtain rfl | ⟨x, y, n, rfl⟩ := graphic_mem_mayWrite.1 hw
    · exact hcls hi
    · exact hdrw x y n hi
  · intro hldI hidx
    refine step_agrees (f := .I) h (by decide) fun i hi hw => ?_
    obtain ⟨nnn, rfl⟩ | ⟨x, rfl | rfl⟩ := I_mem_mayWrite.1 hw
    · exact hldI nnn hi
    · exact (hidx x).1 hi
    · exact (hidx x).2 hi

end Sys2Proof.Machine
end

section
/-! The invariants of the state: memory's canonical form, and the range of pc and of the saved return addresses. -/

namespace Sys2Proof.Machine

/-! ### Memory -/

/-- A store keeps memory canonical: it writes inside the machine's addresses, or it stops the core. -/
theorem storeBytes_keeps_wf {base : Nat} {bs : List Byte} {s t : State} (hs : Memory.wf s.mem)
    (h : storeBytes base bs s = .next t) : Memory.wf t.mem := by
  rcases storeBytes_cases base bs s with ⟨hin, e⟩ | ⟨_, _, e⟩ <;> rw [e] at h <;> cases h
  · rcases hin with rfl | hle
    · exact hs
    · exact Memory.wf_writeList bs hs hle
  · exact hs

/-- The cell list itself, and not only the bytes read from it, is as before where an instruction is no store. -/
theorem exec_mem_eq {i : Instr} {s t : State} (hi : .mem ∉ mayWrite i) (h : exec i s = .next t) : t.mem = s.mem := by
  cases i <;> simp only [exec] at h
  case ldBVx | ldMemVx => simp [mayWrite] at hi
  case ret => rcases popReturn_cases s with ⟨_, e⟩ | ⟨_, e⟩ <;> rw [execRet, e] at h <;> cases h <;> rfl
  case call nnn =>
    rcases callTo_cases (zextAddr nnn) s with ⟨_, e⟩ | ⟨_, e⟩ <;> rw [execCall, e] at h <;> cases h <;> rfl
  case drw x y n =>
    rcases drawAt_cases (s.getV x).toNat (s.getV y).toNat n.toNat s with ⟨_, _, e⟩ | ⟨_, _, e⟩ | ⟨_, e⟩ <;>
      rw [execDrw, e] at h <;> cases h <;> rfl
  case skp x =>
    rcases withKeyIndex_cases x s (fun k => s.skipIf (s.keyDown k)) with ⟨_, e⟩ | ⟨_, e⟩ <;>
      rw [execSkp, e] at h <;> cases h <;> simp [skipIf_eq]
  case sknp x =>
    rcases withKeyIndex_cases x s (fun k => s.skipIf (!s.keyDown k)) with ⟨_, e⟩ | ⟨_, e⟩ <;>
      rw [execSknp, e] at h <;> cases h <;> simp [skipIf_eq]
  case ldVxMem => unfold execLdVxMem at h; split at h <;> cases h <;> rfl
  case ldVxK => unfold execLdVxK at h; split at h <;> cases h <;> rfl
  case seImm | sneImm | seReg | sneReg => cases h; simp [skipIf_eq]
  all_goals cases h; rfl

theorem exec_keeps_wf {i : Instr} {s t : State} (hs : Memory.wf s.mem) (h : exec i s = .next t) : Memory.wf t.mem := by
  by_cases hw : .mem ∈ mayWrite i
  · obtain ⟨x, rfl | rfl⟩ := mem_mem_mayWrite.1 hw
    · exact storeBytes_keeps_wf hs h
    · exact storeBytes_keeps_wf hs h
  · rwa [exec_mem_eq hw h]

/-- Settles O21: a step leaves the cell list alone, or is a store inside the machine's addresses. -/
theorem stepKeepsMemoryCanonical : Obligations.StepKeepsMemoryCanonical := by
  intro s t hs h
  rcases step_cases s t h with ⟨_, rfl⟩ | ⟨_, _, hff⟩ | ⟨op, u, _, _, _, rfl⟩ | ⟨op, i, _, _, _, he⟩
  · exact hs
  · cases hff
    exact hs
  · rwa [beginCycle_mem]
  · exact exec_keeps_wf (by rwa [beginCycle_mem]) he

/-! ### The stack -/

/-- What step 4 does to the stack: nothing, or 2NNN with a free slot puts pc into the entry at sp (R24, R124). -/
theorem exec_stack_cases {i : Instr} {s t : State} (h : exec i s = .next t) :
    t.stack = s.stack ∨ ∃ hsp : s.sp.val < 16, t.stack = s.stack.set s.sp.val s.pc := by
  by_cases hw : .stack ∈ mayWrite i
  · obtain ⟨nnn, rfl⟩ := stack_mem_mayWrite.1 hw
    rw [exec, execCall] at h
    rcases callTo_cases (zextAddr nnn) s with ⟨hsp, e⟩ | ⟨_, e⟩ <;> rw [e] at h <;> cases h
    · exact .inr ⟨hsp, rfl⟩
    · exact .inl rfl
  · exact .inl (exec_unchangedExcept_mayWrite i s t h .stack hw)

theorem exec_stack_of_ne_sp {i : Instr} {s t : State} (h : exec i s = .next t) {j : Nat} (hj : j < 16)
    (hne : j ≠ s.sp.val) : t.stack[j] = s.stack[j] := by
  rcases exec_stack_cases h with e | ⟨hsp, e⟩
  · simp only [e]
  · simp only [e, Vector.getElem_set_ne hsp hj hne.symm]

/-- Settles O17: a step's frame for the stack and sp, and 2NNN's single write. -/
theorem onlyCallAndReturnTouchStack : Obligations.OnlyCallAndReturnTouchStack := by
  intro s t h
  refine ⟨fun hcall => ?_, fun j hj hne => ?_, fun hcall hret => ?_⟩
  · refine step_agrees (f := .stack) h (by decide) fun i hi hw => ?_
    obtain ⟨nnn, rfl⟩ := stack_mem_mayWrite.1 hw
    exact hcall nnn hi
  · rcases step_cases s t h with ⟨_, rfl⟩ | ⟨_, _, hff⟩ | ⟨op, u, _, _, _, rfl⟩ | ⟨op, i, _, _, _, he⟩
    · rfl
    · cases hff
      rfl
    · simp only [beginCycle_stack]
    · rw [exec_stack_of_ne_sp he hj (by rwa [beginCycle_sp])]
      simp only [beginCycle_stack]
  · refine step_agrees (f := .sp) h (by decide) fun i hi hw => ?_
    obtain ⟨nnn, rfl⟩ | rfl := sp_mem_mayWrite.1 hw
    · exact hcall nnn hi
    · exact hret hi

/-! ### The range of pc (R22) -/

theorem PcInRange.of_eq {s t : State} (hs : PcInRange s) (hpc : t.pc = s.pc) (hst : t.stack = s.stack) : PcInRange t := by
  obtain ⟨hle, hret⟩ := hs
  exact ⟨by rwa [hpc], fun j hj => by simpa only [hst] using hret j hj⟩

theorem toNat_zextAddr_lt (nnn : Addr12) : (zextAddr nnn).toNat < 4096 := by
  have := nnn.isLt
  simp only [zextAddr, BitVec.toNat_setWidth]
  omega

theorem toNat_zextByte_lt (b : Byte) : (zextByte b).toNat < 256 := by
  have := b.isLt
  simp only [zextByte, BitVec.toNat_setWidth]
  omega

/-- A successful fetch leaves pc between 2 and 0x1000. -/
theorem beginCycle_pc_range {s : State} {op : Word} (hf : s.fetchWord = some op) :
    2 ≤ (s.beginCycle op).pc.toNat ∧ (s.beginCycle op).pc.toNat ≤ 0x1000 := by
  rw [fetchWord_eq] at hf
  split at hf
  · rw [beginCycle_pc]
    bv_omega
  · cases hf

theorem skipIf_pc_le {s : State} (hhi : s.pc.toNat ≤ 0x1000) (c : Bool) : (s.skipIf c).pc.toNat ≤ 0x10FE := by
  rw [skipIf_eq, setPc_pc]
  split <;> bv_omega

/-- Where step 4 leaves pc, after a fetch and with return addresses in range: a skip adds 2, FX0A goes back 2, a jump goes
to at most 0xFFF + 0xFF, a return to a saved address (R22). -/
theorem exec_pc_le {i : Instr} {s t : State} (hlo : 2 ≤ s.pc.toNat) (hhi : s.pc.toNat ≤ 0x1000)
    (hst : ∀ j (h : j < 16), (s.stack[j]).toNat ≤ 0x1000) (h : exec i s = .next t) : t.pc.toNat ≤ 0x10FE := by
  have hpc : s.pc.toNat ≤ 0x10FE := by omega
  by_cases hw : .pc ∈ mayWrite i
  · cases i <;> simp only [exec] at h
    case ret =>
      rcases popReturn_cases s with ⟨hsp, e⟩ | ⟨_, e⟩ <;> rw [execRet, e] at h <;> cases h
      · have := hst (s.sp.val - 1) (by omega)
        rw [setPc_pc]
        omega
      · exact hpc
    case jp nnn =>
      cases h
      have := toNat_zextAddr_lt nnn
      rw [setPc_pc]
      omega
    case call nnn =>
      rcases callTo_cases (zextAddr nnn) s with ⟨_, e⟩ | ⟨_, e⟩ <;> rw [execCall, e] at h <;> cases h
      · have := toNat_zextAddr_lt nnn
        rw [setPc_pc]
        omega
      · exact hpc
    case jpV0 nnn =>
      cases h
      have := toNat_zextAddr_lt nnn
      have := toNat_zextByte_lt (s.getV 0)
      rw [setPc_pc]
      bv_omega
    case skp x =>
      rcases withKeyIndex_cases x s (fun k => s.skipIf (s.keyDown k)) with ⟨_, e⟩ | ⟨_, e⟩ <;>
        rw [execSkp, e] at h <;> cases h
      · exact skipIf_pc_le hhi _
      · exact hpc
    case sknp x =>
      rcases withKeyIndex_cases x s (fun k => s.skipIf (!s.keyDown k)) with ⟨_, e⟩ | ⟨_, e⟩ <;>
        rw [execSknp, e] at h <;> cases h
      · exact skipIf_pc_le hhi _
      · exact hpc
    case seImm | sneImm | seReg | sneReg =>
      cases h
      exact skipIf_pc_le hhi _
    case ldVxK x =>
      unfold execLdVxK at h
      split at h <;> cases h
      · exact hpc
      · rw [State.rewind, setPc_pc]
        bv_omega
    all_goals simp [mayWrite] at hw
  · have hkeep : t.pc = s.pc := exec_unchangedExcept_mayWrite i s t h .pc hw
    rwa [hkeep]

/-- A pushed return address is pc after a fetch, so at most 0x1000. -/
theorem exec_stack_le {i : Instr} {s t : State} (hhi : s.pc.toNat ≤ 0x1000)
    (hst : ∀ j (h : j < 16), (s.stack[j]).toNat ≤ 0x1000) (h : exec i s = .next t) (j : Nat) (hj : j < 16) :
    (t.stack[j]).toNat ≤ 0x1000 := by
  rcases exec_stack_cases h with e | ⟨hsp, e⟩
  · simpa only [e] using hst j hj
  · simp only [e, Vector.getElem_set]
    split
    · exact hhi
    · exact hst j hj

/-- Settles O22: after a fetch pc is at most 0x1000, and step 4 keeps the bounds from there. -/
theorem stepKeepsPcInRange : Obligations.StepKeepsPcInRange := by
  intro s t hs h
  rcases step_cases s t h with ⟨_, rfl⟩ | ⟨_, _, hff⟩ | ⟨op, u, _, hf, _, rfl⟩ | ⟨op, i, _, hf, _, he⟩
  · exact hs
  · cases hff
    exact hs.of_eq rfl rfl
  · obtain ⟨_, hhi⟩ := beginCycle_pc_range hf
    exact ⟨by omega, fun j hj => by simpa only [beginCycle_stack] using hs.2 j hj⟩
  · obtain ⟨hlo, hhi⟩ := beginCycle_pc_range hf
    have hst : ∀ j (h : j < 16), ((s.beginCycle op).stack[j]).toNat ≤ 0x1000 := fun j hj => by
      simpa only [beginCycle_stack] using hs.2 j hj
    exact ⟨exec_pc_le hlo hhi hst he, exec_stack_le hhi hst he⟩

/-! ### Reset and the host's calls -/

theorem pcInRange_reset : PcInRange State.reset := ⟨by decide, by decide⟩

/-- Settles O23: reset has no cell listed, pc 0x200 and return addresses 0. -/
theorem resetMeetsInvariants : Obligations.ResetMeetsInvariants := ⟨Memory.wf_nil, pcInRange_reset⟩

theorem wf_installFont (font : Config.Font) : Memory.wf (installFont font) :=
  Memory.wf_writeList font.toList Memory.wf_nil (by simp)

/-- `loadProgram` writes at most 0xE00 bytes from 0x200, so inside memory, and touches neither pc nor the stack. -/
theorem loadProgram_keeps_invariants {bytes : List Byte} {s t : State} (hm : Memory.wf s.mem) (hp : PcInRange s)
    (h : loadProgram bytes s = .next t) : Memory.wf t.mem ∧ PcInRange t := by
  unfold loadProgram at h
  split at h <;> cases h
  rename_i hlen
  simp only [Config.maxProgramLen, not_lt] at hlen
  refine ⟨Memory.wf_writeList bytes hm ?_, hp.of_eq rfl rfl⟩
  simp only [Config.programBase, Config.memSize]
  omega

theorem loadKey_keeps_invariants {keys : Vector Byte 16} {s t : State} (hm : Memory.wf s.mem) (hp : PcInRange s)
    (h : loadKey keys s = .next t) : Memory.wf t.mem ∧ PcInRange t := by
  unfold loadKey at h
  split at h <;> cases h
  exact ⟨hm, hp.of_eq rfl rfl⟩

/-- Settles O24: call by call; a step keeps both invariants, and `initialize` gives both whatever the font. -/
theorem hostMovesKeepInvariants : Obligations.HostMovesKeepInvariants := by
  intro op s t hm hp h
  cases op with
  | initializeCore font =>
    cases h
    exact ⟨wf_installFont font, pcInRange_reset.of_eq rfl rfl⟩
  | loadProgram bytes => exact loadProgram_keeps_invariants hm hp h
  | loadKey keys => exact loadKey_keeps_invariants hm hp h
  | doCycle => exact ⟨stepKeepsMemoryCanonical s t hm h, stepKeepsPcInRange s t hp h⟩
  | clearDrawFlag =>
    cases h
    exact ⟨hm, hp.of_eq rfl rfl⟩
  | loadScreen | readDrawFlag | snapshot | soundLevel =>
    cases h
    exact ⟨hm, hp⟩

end Sys2Proof.Machine
end

section
/-! What a fetching cycle leaves in drawFlag, the latch, the counter and the timers, and that only CXNN meets the random
source. -/

namespace Sys2Proof.Machine

/-! ### drawFlag -/

/-- A draw sets drawFlag exactly if it did not fault (R112, R200). -/
theorem drawAt_drawFlag {x0 y0 n : Nat} {s t : State} (hd : s.drawFlag = false) (hr : s.status = .running)
    (h : drawAt x0 y0 n s = .next t) : t.drawFlag = true ↔ t.status = .running := by
  rcases drawAt_cases x0 y0 n s with ⟨_, _, e⟩ | ⟨_, _, e⟩ | ⟨_, e⟩ <;> rw [e] at h <;> cases h
  · simp [hr]
  · simp [hd]
  · simp [hd]

/-- Step 4 from a clear drawFlag sets it exactly for 00E0 and for a DXYN that does not fault. -/
theorem exec_drawFlag_iff {i : Instr} {s t : State} (hd : s.drawFlag = false) (hr : s.status = .running)
    (h : exec i s = .next t) :
    t.drawFlag = true ↔ i = .cls ∨ ((∃ x y n, i = .drw x y n) ∧ t.status = .running) := by
  by_cases hw : .drawFlag ∈ mayWrite i
  · obtain rfl | ⟨x, y, n, rfl⟩ := drawFlag_mem_mayWrite.1 hw
    · cases h
      simp
    · simpa using drawAt_drawFlag hd hr h
  · have hkeep : t.drawFlag = s.drawFlag := exec_unchangedExcept_mayWrite i s t h .drawFlag hw
    rw [drawFlag_mem_mayWrite, not_or] at hw
    simp [hkeep, hd, hw.1, hw.2]

/-- Settles O11: step 2 clears drawFlag, and step 4 sets it for 00E0 and a DXYN that does not fault. -/
theorem drawFlagTellsDrawOrClear : Obligations.DrawFlagTellsDrawOrClear := by
  intro s t w hr hf h
  rcases step_fetched_cases hr hf h with ⟨u, hd, rfl⟩ | ⟨i, hd, he⟩
  · simp [hd]
  · simpa [hd] using exec_drawFlag_iff (beginCycle_drawFlag s w) (by rwa [beginCycle_status]) he

/-! ### Latch, counter and timers -/

/-- The timers after steps 1 to 3, in numbers (R104). -/
theorem toNat_beginCycle_timers (s : State) (op : Word) :
    (s.beginCycle op).delayTimer.toNat = s.delayTimer.toNat - (if s.cycleCounter.toNat = 7 then 1 else 0) ∧
    (s.beginCycle op).soundTimer.toNat = s.soundTimer.toNat - (if s.cycleCounter.toNat = 7 then 1 else 0) := by
  simp only [beginCycle_delayTimer, beginCycle_soundTimer, toNat_decayed, and_self]

/-- Settles O12: steps 1 to 3 latch, count and decay; step 4 writes a timer only in FX15 and FX18. -/
theorem timersAfterCycle : Obligations.TimersAfterCycle := by
  intro s t w hr hf h
  obtain ⟨hdt, hst⟩ := toNat_beginCycle_timers s w
  rcases step_fetched_cases hr hf h with ⟨u, hd, rfl⟩ | ⟨i, hd, he⟩
  · simp only [hd, hdt, hst, beginCycle_opcode, beginCycle_cycleCounter, toNat_counter_succ, reduceCtorEq,
      false_implies, implies_true, and_self]
  · obtain ⟨_, hop, hcc⟩ := exec_keeps i _ t he
    have frame := exec_unchangedExcept_mayWrite i _ t he
    rw [hd]
    refine ⟨by rw [hop, beginCycle_opcode], by rw [hcc, beginCycle_cycleCounter, toNat_counter_succ], ?_, ?_, ?_, ?_⟩
    · intro hno
      have hkeep : t.delayTimer = (s.beginCycle w).delayTimer := frame .delayTimer fun hw => by
        obtain ⟨x, rfl⟩ := delayTimer_mem_mayWrite.1 hw
        exact hno x rfl
      rw [hkeep, hdt]
    · intro x hx
      cases hx
      cases he
      simp
    · intro hno
      have hkeep : t.soundTimer = (s.beginCycle w).soundTimer := frame .soundTimer fun hw => by
        obtain ⟨x, rfl⟩ := soundTimer_mem_mayWrite.1 hw
        exact hno x rfl
      rw [hkeep, hst]
    · intro x hx
      cases hx
      cases he
      simp

/-! ### The random source -/

/-- A meaning that neither reads nor advances the draw counter: another count goes through it untouched. -/
def IgnoresRng (f : State → Result) : Prop :=
  ∀ (s t : State) (n : Nat), f s = .next t → f (s.setRngDraws n) = .next (t.setRngDraws n)

theorem raiseFault_ignoresRng (code : Fault) : IgnoresRng (raiseFault code) := by
  intro s t n h
  cases h
  rfl

theorem raiseFetchFault_ignoresRng : IgnoresRng raiseFetchFault := by
  intro s t n h
  cases h
  rfl

/-- A total update that commutes with the counter ignores it. -/
theorem IgnoresRng.ofUpdate {g : State → State} (hg : ∀ s n, g (s.setRngDraws n) = (g s).setRngDraws n) :
    IgnoresRng fun s => .next (g s) := by
  intro s t n h
  cases h
  exact congrArg Host.Outcome.next (hg s n)

/-- A meaning behind a check ignores the counter, if the check does not read it and what the check guards ignores it. -/
theorem IgnoresRng.guarded {c : State → Prop} [DecidablePred c] {f : State → Result} (code : Fault)
    (hc : ∀ s n, c (s.setRngDraws n) ↔ c s) (hf : IgnoresRng f) :
    IgnoresRng fun s => if c s then f s else raiseFault code s := by
  intro s t n h
  by_cases hs : c s
  · simp only [if_pos hs] at h
    simp only [if_pos ((hc s n).2 hs)]
    exact hf s t n h
  · simp only [if_neg hs] at h
    simp only [if_neg fun h' => hs ((hc s n).1 h')]
    exact raiseFault_ignoresRng code s t n h

theorem callTo_ignoresRng (target : Word) : IgnoresRng (callTo target) := by
  intro s t n h
  rcases callTo_cases target s with ⟨hsp, e⟩ | ⟨hsp, e⟩ <;> rw [e] at h <;> cases h
  · exact dif_pos hsp
  · exact dif_neg (by rw [setRngDraws_sp]; omega)

theorem popReturn_ignoresRng : IgnoresRng popReturn := by
  intro s t n h
  rcases popReturn_cases s with ⟨hsp, e⟩ | ⟨hsp, e⟩ <;> rw [e] at h <;> cases h
  · exact dif_pos hsp
  · exact dif_neg (by rw [setRngDraws_sp]; omega)

theorem skipIf_setRngDraws (s : State) (n : Nat) (c : Bool) : (s.setRngDraws n).skipIf c = (s.skipIf c).setRngDraws n := by
  cases c <;> rfl

theorem withKeyIndex_ignoresRng (x : Nibble) (c : State → Nat → Bool) (hc : ∀ s n k, c (s.setRngDraws n) k = c s k) :
    IgnoresRng fun s => withKeyIndex x s fun k => s.skipIf (c s k) :=
  .guarded _ (fun _ _ => .rfl) (.ofUpdate fun s n => by simp only [hc, skipIf_setRngDraws, setRngDraws_getV])

theorem execLdVxK_ignoresRng (x : Nibble) : IgnoresRng (execLdVxK x) := by
  intro s t n h
  unfold execLdVxK at h ⊢
  rw [setRngDraws_firstKey]
  split at h <;> cases h <;> rfl

/-- Step 4 of every instruction but CXNN ignores the draw counter. -/
theorem exec_ignoresRng {i : Instr} (hi : .rngDraws ∉ mayWrite i) : IgnoresRng (exec i) := by
  cases i
  case rnd => simp [mayWrite] at hi
  case ret => exact popReturn_ignoresRng
  case call nnn => exact callTo_ignoresRng _
  case drw =>
    exact .guarded _ (fun _ _ => .rfl) (.guarded _ (fun _ _ => .rfl) (.ofUpdate fun _ _ => rfl))
  case skp x => exact withKeyIndex_ignoresRng x State.keyDown fun _ _ _ => rfl
  case sknp x => exact withKeyIndex_ignoresRng x (fun s k => !s.keyDown k) fun _ _ _ => rfl
  case ldBVx | ldMemVx | ldVxMem => exact .guarded _ (fun _ _ => .rfl) (.ofUpdate fun _ _ => rfl)
  case ldVxK x => exact execLdVxK_ignoresRng x
  case seImm | sneImm | seReg | sneReg => exact .ofUpdate fun s n => skipIf_setRngDraws s n _
  all_goals exact .ofUpdate fun _ _ => rfl

theorem beginCycle_setRngDraws (s : State) (n : Nat) (op : Word) :
    (s.setRngDraws n).beginCycle op = (s.beginCycle op).setRngDraws n := by
  simp only [State.beginCycle, timerDecay_eq]
  rfl

/-- Settles O18: steps 1 to 3 and every meaning but that of CXNN ignore the draw counter. -/
theorem onlyRndUsesRandomSource : Obligations.OnlyRndUsesRandomSource := by
  intro s t n hno h
  rcases step_cases s t h with ⟨hr, rfl⟩ | ⟨hr, hf, hff⟩ | ⟨op, u, hr, hf, hd, rfl⟩ | ⟨op, i, hr, hf, hd, he⟩
  · exact step_of_not_running hr
  · rw [step_of_fetchWord_none (s := s.setRngDraws n) hr hf]
    exact raiseFetchFault_ignoresRng s t n hff
  · rw [step_of_fetchWord_some (s := s.setRngDraws n) hr hf, hd, beginCycle_setRngDraws]
    rfl
  · have hi : .rngDraws ∉ mayWrite i := fun hw => by
      obtain ⟨x, nn, rfl⟩ := rngDraws_mem_mayWrite.1 hw
      exact hno x nn ⟨hr, op, hf, hd⟩
    rw [step_of_decode (s := s.setRngDraws n) hr hf hd, beginCycle_setRngDraws]
    exact exec_ignoresRng hi _ t n he

end Sys2Proof.Machine
end

section
/-! A word that decodes to an instruction is that instruction's word (30_encoding R71, R73, R74), family by family. -/

namespace Sys2Proof

section
variable {w : Word} {i : Instr}

/-- A word of a format from its fixed fields. -/
theorem formatA_of_family {f : Nibble} (hf : family w = f) : formatA f (fieldNNN w) = w := hf ▸ formatA_fields w

theorem formatXNN_of_family {f : Nibble} (hf : family w = f) : formatXNN f (fieldX w) (fieldNN w) = w :=
  hf ▸ formatXNN_fields w

theorem formatXNN_of_low {f : Nibble} {nn : Byte} (hf : family w = f) (hn : fieldNN w = nn) :
    formatXNN f (fieldX w) nn = w := hn ▸ formatXNN_of_family hf

theorem formatXYN_of_family {f : Nibble} (hf : family w = f) : formatXYN f (fieldX w) (fieldY w) (fieldN w) = w :=
  hf ▸ formatXYN_fields w

theorem formatXYN_of_low {f n : Nibble} (hf : family w = f) (hn : fieldN w = n) :
    formatXYN f (fieldX w) (fieldY w) n = w := hn ▸ formatXYN_of_family hf

theorem encode_of_decode0 (hf : family w = 0x0#4) (h : decode0 w = .instr i) : encode i = w := by
  unfold decode0 at h
  split at h
  · cases h; exact Eq.symm ‹_›
  · split at h <;> cases h
    · exact Eq.symm ‹_›
    · exact formatA_of_family hf

theorem encode_of_decode8 (hf : family w = 0x8#4) (h : decode8 w = .instr i) : encode i = w := by
  simp only [decode8] at h
  split at h <;> cases h <;> exact formatXYN_of_low hf ‹_›

theorem encode_of_decodeE (hf : family w = 0xE#4) (h : decodeE w = .instr i) : encode i = w := by
  unfold decodeE at h
  split at h <;> cases h <;> exact formatXNN_of_low hf ‹_›

theorem encode_of_decodeF (hf : family w = 0xF#4) (h : decodeF w = .instr i) : encode i = w := by
  simp only [decodeF] at h
  split at h <;> cases h <;> exact formatXNN_of_low hf ‹_›

/-- Encoding inverts decoding: no bit of a decoded word is dropped. -/
theorem encode_of_decode (h : decode w = .instr i) : encode i = w := by
  unfold decode at h
  split at h -- case `h_k` is family `k - 1`
  case h_1 hf => exact encode_of_decode0 hf h
  case h_9 hf => exact encode_of_decode8 hf h
  case h_15 hf => exact encode_of_decodeE hf h
  case h_16 =>
    exact encode_of_decodeF (nibble_eq_F fun k hk => by interval_cases k <;> assumption) h
  case h_2 hf | h_3 hf | h_11 hf | h_12 hf => cases h; exact formatA_of_family hf
  case h_6 hf | h_10 hf | h_14 hf => cases h; exact formatXYN_of_family hf
  all_goals cases h; exact formatXNN_of_family ‹_›

end

end Sys2Proof
end

section
/-! No step writes the key flags, and a run at an FX0A that blocks stays there (44_input_timer R222, 60_exceptions R258). -/

namespace Sys2Proof.Machine

/-- The fields that change while the core waits at an FX0A: those of steps 1 to 3 but pc, which FX0A rewinds. -/
def waitFields : List Field := [.opcode, .drawFlag, .cycleCounter, .delayTimer, .soundTimer]

/-- The core runs at the FX0A of register `x`, and no key is pressed. -/
def WaitsForKey (x : Nibble) (s : State) : Prop := NextInstr s (.ldVxK x) ∧ ∀ k < 16, s.keyDown k = false

theorem step_keyDown {s t : State} (h : step s = .next t) (k : Nat) : t.keyDown k = s.keyDown k :=
  step_agrees (f := .key) h (by decide) (fun _ _ => key_not_mem_mayWrite) k

/-- The fetch reads pc and memory only. -/
theorem fetchWord_congr {s t : State} (hpc : t.pc = s.pc) (hm : ∀ a, t.readMem a = s.readMem a) :
    t.fetchWord = s.fetchWord := by
  simp only [fetchWord_eq, hpc, hm]

section
variable {x : Nibble} {s t : State}

/-- What the wait leaves alone includes all it depends on. -/
theorem WaitsForKey.of_unchanged (hs : WaitsForKey x s) (h : UnchangedExcept waitFields s t) : WaitsForKey x t := by
  obtain ⟨⟨hr, w, hf, hd⟩, hk⟩ := hs
  have hpc : t.pc = s.pc := h .pc (by decide)
  have hm : ∀ a, t.readMem a = s.readMem a := h .mem (by decide)
  have hst : t.status = s.status := h .status (by decide)
  have hkey : ∀ k, t.keyDown k = s.keyDown k := h .key (by decide)
  exact ⟨⟨hst.trans hr, w, (fetchWord_congr hpc hm).trans hf, hd⟩, fun k hlt => (hkey k).trans (hk k hlt)⟩

theorem WaitsForKey.fetchWord_eq_encode (hs : WaitsForKey x s) : s.fetchWord = some (encode (.ldVxK x)) := by
  obtain ⟨⟨_, w, hf, hd⟩, _⟩ := hs
  rw [hf, encode_of_decode hd]

theorem WaitsForKey.atKeyWait (hs : WaitsForKey x s) : AtKeyWait s :=
  ⟨⟨x, hs.fetchWord_eq_encode⟩, (noKeyDown_iff s).2 hs.2⟩

/-- The words of FX0A and 1NNN differ in their family. -/
theorem WaitsForKey.not_atIdleLoop (hs : WaitsForKey x s) : ¬ AtIdleLoop s := by
  rintro ⟨nnn, _, hf⟩
  have hw : encode (.ldVxK x) = encode (.jp nnn) := Option.some.inj (hs.fetchWord_eq_encode.symm.trans hf)
  have hfam := congrArg family hw
  simp [encode] at hfam

/-- With no key pressed FX0A's whole cycle comes back to the same pc: steps 1 to 3 and the rewind. -/
theorem WaitsForKey.step_unchanged (hs : WaitsForKey x s) (h : step s = .next t) : UnchangedExcept waitFields s t := by
  obtain ⟨⟨hr, w, hf, hd⟩, hk⟩ := hs
  have hnone : (s.beginCycle w).firstKey = none := (firstKey_eq_none _).2 (by simpa using hk)
  rw [step_of_decode hr hf hd, exec, execLdVxK, hnone] at h
  cases h
  intro f hnw
  by_cases hpc : f = .pc
  · subst hpc
    simp [Field.agrees, State.rewind]
  · have hb : f ∉ beginFields := by cases f <;> simp_all [beginFields, waitFields]
    exact ((unchanged_beginCycle s w).mono (gs := .pc :: beginFields) (by simp +contextual)).trans
      ((unchanged_setPc _ _).mono (by simp)) f (by simp [hpc, hb])

/-- A key load that presses no key leaves a state with no key pressed as it is, flag by flag. -/
theorem WaitsForKey.loadKey_unchanged (hs : WaitsForKey x s) {keys : Vector Byte 16}
    (hno : HostOp.PressesNoKey (.loadKey keys)) :
    UnchangedExcept waitFields s (s.setKey (keys.map fun b => b == 1#8)) := by
  have hkey : ∀ k, (s.setKey (keys.map fun b => b == 1#8)).keyDown k = s.keyDown k := by
    intro k
    by_cases hk : k < 16
    · rw [hs.2 k hk]
      simp [State.keyDown, hk, hno keys rfl k hk]
    · simp [State.keyDown, hk]
  intro f _
  by_cases hf : f = .key
  · subst hf
    exact hkey
  · exact unchanged_setKey s _ f (by simpa using hf)

/-- One move of the run keeps the wait, and what the wait leaves alone. -/
theorem WaitsForKey.afterMove_unchanged (hs : WaitsForKey x s) {op : HostOp} (hp : op.KeepsProgram)
    (hno : op.PressesNoKey) : UnchangedExcept waitFields s (afterMove op s) := by
  rcases afterMove_cases op s hp with ⟨_, h⟩ | ⟨keys, rfl, h | h⟩ | h | h
  · exact hs.step_unchanged h
  · rw [h]
    exact hs.loadKey_unchanged hno
  · rw [h]
    exact .refl _ _
  · rw [h]
    exact (unchanged_setDrawFlag s false).mono (by decide)
  · rw [h]
    exact .refl _ _

end

/-- Along a run from a wait on, with neither a new program nor a key press, the wait's frame holds. -/
theorem Run.unchanged_of_waitsForKey {r : Run} {k : Nat} {x : Nibble} (hs : WaitsForKey x (r.state k))
    (hm : r.MovesFrom k fun op => op.KeepsProgram ∧ op.PressesNoKey) :
    ∀ j ≥ k, UnchangedExcept waitFields (r.state k) (r.state j) :=
  Run.induction hm (.refl _ _) fun _ _ ⟨hp, hno⟩ hu => hu.trans ((hs.of_unchanged hu).afterMove_unchanged hp hno)

/-- Settles O14: step 4 writes no key flag, and the wait at an FX0A is an invariant of the run. -/
theorem noStepWritesKeys : Obligations.NoStepWritesKeys := by
  refine ⟨fun s t h => step_keyDown h, fun r k x hi hk hm => ?_⟩
  have hs : WaitsForKey x (r.state k) := ⟨hi, hk⟩
  have frame := Run.unchanged_of_waitsForKey hs hm
  have wait : ∀ j ≥ k, WaitsForKey x (r.state j) := fun j hj => hs.of_unchanged (frame j hj)
  refine ⟨⟨hi.1, .inr ⟨hs.atKeyWait, fun j hj => (wait j hj).atKeyWait.2⟩⟩,
    fun j hj => ⟨(wait j hj).1, frame j hj⟩, fun ops hops hbefore => ⟨⟨ops, hops⟩, fun j => ?_⟩⟩
  by_cases hj : j < k
  · exact hbefore j hj
  · exact (wait j (by omega)).not_atIdleLoop

end Sys2Proof.Machine
end

section
/-! What a store leaves in memory, byte by byte, and that the fetch reads it: there is one memory, for data and for
instructions (20_memory R54, R63, 70_reset R286). -/

namespace Sys2Proof.Machine

/-! ### The bytes of a store -/

section
variable {base : Nat} {bs : List Byte} {s : State}

/-- Inside the range written, a store leaves its byte. -/
theorem readMem_setMem_writeList_add {j : Nat} (hj : j < bs.length) :
    (s.setMem (Memory.writeList s.mem base bs)).readMem (base + j) = bs[j] := by
  simp [readMem_setMem_writeList, hj]

/-- Outside the range written, a store leaves the old byte. -/
theorem readMem_setMem_writeList_of_outside {a : Nat} (ha : a < base ∨ base + bs.length ≤ a) :
    (s.setMem (Memory.writeList s.mem base bs)).readMem a = s.readMem a := by
  rw [readMem_setMem_writeList, dif_neg (by omega)]

theorem storeBytes_of_le (h : base + bs.length ≤ 4096) :
    storeBytes base bs s = .next (s.setMem (Memory.writeList s.mem base bs)) :=
  if_pos ((spanInRange_iff base bs.length).2 (.inr h))

/-- The fetch after a store: each of its two bytes is the stored one where the store covers it, else the old one. -/
theorem fetchWord_setMem_writeList (hpc : s.pc.toNat + 1 ≤ 0xFFF) :
    ∃ b : Nat → Byte, (s.setMem (Memory.writeList s.mem base bs)).fetchWord = some (wordOfBytes (b 0) (b 1)) ∧
      ∀ e < 2, (∀ j (h : j < bs.length), s.pc.toNat + e = base + j → b e = bs[j]) ∧
        (s.pc.toNat + e < base ∨ base + bs.length ≤ s.pc.toNat + e → b e = s.readMem (s.pc.toNat + e)) := by
  refine ⟨fun e => (s.setMem (Memory.writeList s.mem base bs)).readMem (s.pc.toNat + e),
    fetchWord_of_lt (by rw [setMem_pc]; omega),
    fun e _ => ⟨fun j hj he => ?_, readMem_setMem_writeList_of_outside⟩⟩
  simp only [he, readMem_setMem_writeList_add hj]

end

/-! ### FX33 and FX55 in range (R164, R165) -/

/-- The digits of FX33, in numbers. -/
theorem toNat_bcdDigits (b : Byte) :
    (bcdDigits b)[0].toNat = b.toNat / 100 ∧ (bcdDigits b)[1].toNat = b.toNat / 10 % 10 ∧
    (bcdDigits b)[2].toNat = b.toNat % 10 := by
  have := b.isLt
  simp only [bcdDigits, List.getElem_cons_zero, List.getElem_cons_succ, BitVec.toNat_ofNat]
  omega

section
variable {x : Nibble} {s : State}

theorem exec_ldBVx_of_le (h : s.dataAddr 2 ≤ 0xFFF) :
    exec (.ldBVx x) s = .next (s.setMem (Memory.writeList s.mem (s.dataAddr 0) (bcdDigits (s.getV x)))) :=
  storeBytes_of_le (by simp only [State.dataAddr, length_bcdDigits] at *; omega)

theorem exec_ldMemVx_of_le (h : s.dataAddr x.toNat ≤ 0xFFF) :
    exec (.ldMemVx x) s = .next (s.setMem (Memory.writeList s.mem (s.dataAddr 0) (s.regsUpTo x))) :=
  storeBytes_of_le (by simp only [State.dataAddr, length_regsUpTo] at *; omega)

end

/-- A `loadProgram` that is not refused has copied its bytes to 0x200 on (R282). -/
theorem loadProgram_next {bytes : List Byte} {s t : State} (h : loadProgram bytes s = .next t) :
    t = s.setMem (Memory.writeList s.mem 0x200 bytes) := by
  unfold loadProgram at h
  split at h <;> cases h
  rfl

/-! ### The settled statements -/

/-- Settles O7: the fetch's closed form, and the word of two bytes as a number. -/
theorem fetchReadsBigEndian : Obligations.FetchReadsBigEndian := fun _ =>
  ⟨fun h => ⟨_, fetchWord_of_lt (by omega), toNat_wordOfBytes _ _⟩, fun h => fetchWord_of_ge (by omega)⟩

/-- Settles O47: each of the three stores is a `writeList`, and the fetch reads its bytes. -/
theorem storedBytesAreFetched : Obligations.StoredBytesAreFetched := by
  refine ⟨fun x s t hin h hpc => ?_, fun x s t hin h hpc => ?_, fun bytes s t h hpc => ?_⟩
  · cases (exec_ldMemVx_of_le hin).symm.trans h
    obtain ⟨b, hf, hb⟩ := fetchWord_setMem_writeList (base := s.dataAddr 0) (bs := s.regsUpTo x) hpc
    refine ⟨b, hf, fun e he => ?_⟩
    obtain ⟨hstored, hold⟩ := hb e he
    rw [length_regsUpTo] at hold
    refine ⟨fun r hr ha => ?_, fun ha => hold (by simp only [State.dataAddr] at *; omega)⟩
    have hlt : r.toNat < (s.regsUpTo x).length := by rw [length_regsUpTo]; omega
    rw [hstored r.toNat hlt ha, getElem_regsUpTo, BitVec.ofNat_toNat, BitVec.setWidth_eq]
  · cases (exec_ldBVx_of_le hin).symm.trans h
    obtain ⟨b, hf, hb⟩ := fetchWord_setMem_writeList (base := s.dataAddr 0) (bs := bcdDigits (s.getV x)) hpc
    obtain ⟨hundreds, tens, units⟩ := toNat_bcdDigits (s.getV x)
    refine ⟨b, hf, fun e he => ?_⟩
    obtain ⟨hstored, hold⟩ := hb e he
    refine ⟨fun ha => ?_, fun ha => ?_, fun ha => ?_, fun ha => hold ?_⟩
    · rw [hstored 0 (by simp) ha, hundreds]
    · rw [hstored 1 (by simp) ha, tens]
    · rw [hstored 2 (by simp) ha, units]
    · simp only [State.dataAddr, length_bcdDigits] at *
      omega
  · rw [loadProgram_next h]
    exact fetchWord_setMem_writeList hpc

end Sys2Proof.Machine
end

section
/-! Decoding inverts encoding on the well-formed instructions, a decoded instruction is well formed, and the words that
decode to none (30_encoding R71 to R76). -/

namespace Sys2Proof

/-! ### Round trips (R71, R73, R74) -/

section
variable {w : Word} {i : Instr} {u : UndefClass}

theorem sysAddrOk_iff (nnn : Addr12) : sysAddrOk nnn = true ↔ nnn ≠ 0x0E0#12 ∧ nnn ≠ 0x0EE#12 := by
  simp [sysAddrOk]

/-- Family 0x0: every word but those of CLS and RET is a 0NNN (D8). -/
theorem decode_of_family0 (hf : family w = 0x0#4) (hcls : w ≠ 0x00E0#16) (hret : w ≠ 0x00EE#16) :
    decode w = .instr (.sys (fieldNNN w)) := by
  simp only [decode, hf, decode0, if_neg hcls, if_neg hret]

theorem decode_encode_sys {nnn : Addr12} (h : sysAddrOk nnn = true) : decode (encode (.sys nnn)) = .instr (.sys nnn) := by
  obtain ⟨hcls, hret⟩ := (sysAddrOk_iff nnn).1 h
  have ne_of_addr {v : Word} (hne : nnn ≠ fieldNNN v) : formatA 0x0 nnn ≠ v := by
    rintro rfl
    exact hne (fieldNNN_formatA _ _).symm
  have hd := decode_of_family0 (family_formatA 0x0 nnn) (ne_of_addr hcls) (ne_of_addr hret)
  rwa [fieldNNN_formatA] at hd

theorem decode_encode (h : i.wf = true) : decode (encode i) = .instr i := by
  cases i
  case sys nnn => exact decode_encode_sys h
  case cls | ret => rfl
  case ldReg | orReg | andReg | xorReg | addReg | sub | shr | subn | shl => simp [encode, decode, decode8]
  case skp | sknp => simp [encode, decode, decodeE]
  case ldVxDt | ldVxK | ldDtVx | ldStVx | addIVx | ldFVx | ldBVx | ldMemVx | ldVxMem => simp [encode, decode, decodeF]
  all_goals simp [encode, decode]

/-- Only 0NNN can be ill formed, and the words of its two excluded addresses decode to CLS and RET. -/
theorem wf_of_decode (h : decode w = .instr i) : i.wf = true := by
  have hw := encode_of_decode h
  cases i
  case sys nnn =>
    refine (sysAddrOk_iff nnn).2 ⟨?_, ?_⟩ <;>
    · rintro rfl
      subst hw
      exact absurd h (by decide)
  all_goals rfl

/-! ### The undefined spaces (R76) -/

/-- The words of an undefined class, as R76 lists them. -/
def UndefClass.space : UndefClass → Word → Prop
  | .undef8, w => family w = 0x8#4 ∧ fieldN w ∈ [0x8#4, 0x9#4, 0xA#4, 0xB#4, 0xC#4, 0xD#4, 0xF#4]
  | .undefE, w => family w = 0xE#4 ∧ fieldNN w ∉ [0x9E#8, 0xA1#8]
  | .undefF, w => family w = 0xF#4 ∧
      fieldNN w ∉ [0x07#8, 0x0A#8, 0x15#8, 0x18#8, 0x1E#8, 0x29#8, 0x33#8, 0x55#8, 0x65#8]

theorem decode0_ne_undef : decode0 w ≠ .undef u := by
  unfold decode0
  split_ifs <;> simp

theorem decode8_eq_undef_iff (hf : family w = 0x8#4) : decode8 w = .undef u ↔ u.space w := by
  have others : ∀ n : Nibble, n ∉ [0x0#4, 0x1#4, 0x2#4, 0x3#4, 0x4#4, 0x5#4, 0x6#4, 0x7#4, 0xE#4] →
      n ∈ [0x8#4, 0x9#4, 0xA#4, 0xB#4, 0xC#4, 0xD#4, 0xF#4] := by decide
  simp only [decode8]
  split
  case h_10 =>
    have hn := others (fieldN w) (by simp only [List.mem_cons, List.not_mem_nil]; tauto)
    cases u <;> simp [UndefClass.space, hf, hn]
  all_goals cases u <;> simp [UndefClass.space, *]

theorem decodeE_eq_undef_iff (hf : family w = 0xE#4) : decodeE w = .undef u ↔ u.space w := by
  unfold decodeE
  split
  case h_3 => cases u <;> simp_all [UndefClass.space]
  all_goals cases u <;> simp [UndefClass.space, *]

theorem decodeF_eq_undef_iff (hf : family w = 0xF#4) : decodeF w = .undef u ↔ u.space w := by
  simp only [decodeF]
  split
  case h_10 => cases u <;> simp_all [UndefClass.space]
  all_goals cases u <;> simp [UndefClass.space, *]

/-- The words that decode to no instruction are those of the three spaces: only the families 0x8, 0xE and 0xF have any. -/
theorem decode_eq_undef_iff : decode w = .undef u ↔ u.space w := by
  unfold decode
  split -- case `h_k` is family `k - 1`
  case h_1 hf => cases u <;> simp [UndefClass.space, hf, decode0_ne_undef]
  case h_9 hf => exact decode8_eq_undef_iff hf
  case h_15 hf => exact decodeE_eq_undef_iff hf
  case h_16 =>
    exact decodeF_eq_undef_iff (nibble_eq_F fun k hk => by interval_cases k <;> assumption)
  all_goals cases u <;> simp [UndefClass.space, *]

end

end Sys2Proof

namespace Sys2Proof.Machine

/-- Step 3's decay, in numbers (R104). -/
theorem decays_beginCycle (s : State) (op : Word) : Decays s (s.beginCycle op) :=
  ⟨by rw [beginCycle_cycleCounter, toNat_counter_succ], toNat_beginCycle_timers s op⟩

theorem step_of_undef {s : State} {op : Word} {u : UndefClass} (hr : s.status = .running) (hf : s.fetchWord = some op)
    (hd : decode op = .undef u) : step s = .next (s.beginCycle op) := by
  rw [step_of_fetchWord_some hr hf, hd, execDecoded, execUndef]

/-! ### The settled statements -/

/-- Settles O1: by cases on the instruction, each format's fields read back. -/
theorem decodeEncodeRoundTrip : Obligations.DecodeEncodeRoundTrip := fun _ => decode_encode

/-- Settles O2: encoding inverts decoding, and no decoder arm gives an ill-formed instruction. -/
theorem encodeInvertsDecode : Obligations.EncodeInvertsDecode := fun _ _ h => ⟨wf_of_decode h, encode_of_decode h⟩

/-- Settles O3: the undefined words of each family, and the cycle of one. -/
theorem undefinedWordsAreNoOps : Obligations.UndefinedWordsAreNoOps := by
  refine ⟨fun _ => decode_eq_undef_iff, fun _ => decode_eq_undef_iff, fun _ => decode_eq_undef_iff,
    fun _ => decode_of_family0, fun s w u hr hf hd => ?_⟩
  exact ⟨_, step_of_undef hr hf hd, beginCycle_pc s w, beginCycle_opcode s w, beginCycle_drawFlag s w,
    decays_beginCycle s w, unchanged_beginCycle s w⟩

/-- Settles O4, by running the decoder on each word. -/
theorem sampleWordsDecode : Obligations.SampleWordsDecode := by
  unfold Obligations.SampleWordsDecode
  decide

end Sys2Proof.Machine
end

section
/-! The register skips 5XY0 and 9XY0 (41_control_flow R127, R128). -/

namespace Sys2Proof.Machine

theorem skipIf_pc (s : State) (c : Bool) : (s.skipIf c).pc = if c then s.pc + 2 else s.pc := by
  rw [skipIf_eq, setPc_pc]

theorem unchanged_skipIf (s : State) (c : Bool) : UnchangedExcept [.pc] s (s.skipIf c) := by
  rw [skipIf_eq]
  exact unchanged_setPc s _

/-- The row of a family that its nibble alone selects. -/
theorem decodesAs_of_family {mtch : Word} {f : Nibble} {g : Word → Instr} (hm : family mtch = f)
    (h : ∀ w, family w = f → decode w = .instr (g w)) : DecodesAs 0xF000#16 mtch g :=
  fun w hw => h w ((family_of_mask hw).trans hm)

/-- Settles O31: the family nibble alone selects 5XYs and 9XYs, and both are one `skipIf`. -/
theorem registerSkips : Obligations.RegisterSkips := by
  refine ⟨decodesAs_of_family (f := 0x5#4) rfl fun w hf => by simp only [decode, hf],
    decodesAs_of_family (f := 0x9#4) rfl fun w hf => by simp only [decode, hf], fun x y n s => ⟨?_, ?_⟩⟩
  · exact ⟨_, rfl, by simp [skipIf_pc], unchanged_skipIf s _⟩
  · exact ⟨_, rfl, by simp [skipIf_pc], unchanged_skipIf s _⟩

end Sys2Proof.Machine
end

section
/-! The cycle engine (40_cycle_engine R100 to R112): steps 1 to 3, their decay along many cycles, and what a fault of step
4 leaves. -/

namespace Sys2Proof.Machine

/-! ### Decays in a row (R104) -/

theorem decays_timerDecay (s : State) : Decays s s.timerDecay := by
  rw [timerDecay_eq]
  exact ⟨toNat_counter_succ s.cycleCounter, toNat_decayed s.cycleCounter s.delayTimer,
    toNat_decayed s.cycleCounter s.soundTimer⟩

/-- What `k` decays leave: each wrap of the counter past 7 has taken 1 from each timer, not below 0. -/
theorem toNat_timerDecay_iterate (s : State) (k : Nat) :
    (State.timerDecay^[k] s).cycleCounter.toNat = (s.cycleCounter.toNat + k) % 8 ∧
    (State.timerDecay^[k] s).delayTimer.toNat = s.delayTimer.toNat - (s.cycleCounter.toNat + k) / 8 ∧
    (State.timerDecay^[k] s).soundTimer.toNat = s.soundTimer.toNat - (s.cycleCounter.toNat + k) / 8 := by
  have hc := s.cycleCounter.isLt
  induction k with
  | zero =>
    simp only [Function.iterate_zero, id_eq]
    omega
  | succ k ih =>
    rw [Function.iterate_succ_apply']
    obtain ⟨ihc, ihd, ihs⟩ := ih
    obtain ⟨hcount, hdelay, hsound⟩ := decays_timerDecay (State.timerDecay^[k] s)
    have hwrap : (s.cycleCounter.toNat + (k + 1)) / 8 = (s.cycleCounter.toNat + k) / 8 +
        (if (s.cycleCounter.toNat + k) % 8 = 7 then 1 else 0) := by
      split <;> omega
    rw [hcount, hdelay, hsound, ihc, ihd, ihs, hwrap]
    omega

/-! ### Step 4 and the status -/

/-- A meaning that keeps the status, or raises a fault and does nothing else (R112, R241). -/
def KeepsStatusOrFaults (f : State → Result) : Prop :=
  ∀ s t : State, f s = .next t → t.status = s.status ∨ ∃ code, raiseFault code s = .next t

theorem KeepsStatusOrFaults.ofUpdate {g : State → State} (hg : ∀ s, (g s).status = s.status) :
    KeepsStatusOrFaults fun s => .next (g s) := by
  intro s t h
  cases h
  exact .inl (hg s)

/-- Behind a check that raises a fault, only what the check lets through matters. -/
theorem KeepsStatusOrFaults.guarded {c : State → Prop} [DecidablePred c] {f : State → Result} (code : Fault)
    (hf : KeepsStatusOrFaults f) : KeepsStatusOrFaults fun s => if c s then f s else raiseFault code s := by
  intro s t h
  by_cases hs : c s
  · exact hf s t (by simpa only [if_pos hs] using h)
  · exact .inr ⟨code, by simpa only [if_neg hs] using h⟩

theorem callTo_keepsStatusOrFaults (target : Word) : KeepsStatusOrFaults (callTo target) := by
  intro s t h
  rcases callTo_cases target s with ⟨_, e⟩ | ⟨_, e⟩ <;> rw [e] at h
  · cases h
    exact .inl rfl
  · exact .inr ⟨_, h⟩

theorem popReturn_keepsStatusOrFaults : KeepsStatusOrFaults popReturn := by
  intro s t h
  rcases popReturn_cases s with ⟨_, e⟩ | ⟨_, e⟩ <;> rw [e] at h
  · cases h
    exact .inl rfl
  · exact .inr ⟨_, h⟩

theorem skipIf_status (s : State) (c : Bool) : (s.skipIf c).status = s.status := by
  rw [skipIf_eq, setPc_status]

theorem execLdVxK_keepsStatusOrFaults (x : Nibble) : KeepsStatusOrFaults (execLdVxK x) := by
  intro s t h
  unfold execLdVxK at h
  split at h <;> cases h <;> exact .inl rfl

/-- No instruction's step 4 stops the core but by `raiseFault` on the state steps 1 to 3 left. -/
theorem exec_keepsStatusOrFaults (i : Instr) : KeepsStatusOrFaults (exec i) := by
  cases i
  case ret => exact popReturn_keepsStatusOrFaults
  case call nnn => exact callTo_keepsStatusOrFaults _
  case drw => exact .guarded _ (.guarded _ (.ofUpdate fun _ => rfl))
  case skp | sknp => exact .guarded _ (.ofUpdate fun s => skipIf_status s _)
  case ldBVx | ldMemVx | ldVxMem => exact .guarded _ (.ofUpdate fun _ => rfl)
  case ldVxK x => exact execLdVxK_keepsStatusOrFaults x
  case seImm | sneImm | seReg | sneReg => exact .ofUpdate fun s => skipIf_status s _
  all_goals exact .ofUpdate fun _ => rfl

/-! ### The settled statements -/

/-- Settles O10: on a faulted core, by a fetch fault, for an undefined word, and by step 4 of every instruction. -/
theorem everyStepAnswersNext : Obligations.EveryStepAnswersNext := by
  intro s
  by_cases hr : s.status = .running
  · cases hf : s.fetchWord with
    | none => exact ⟨_, step_of_fetchWord_none hr hf⟩
    | some w =>
      cases hd : decode w with
      | undef u => exact ⟨_, step_of_undef hr hf hd⟩
      | instr i =>
        rw [step_of_decode hr hf hd]
        exact exec_answers_next i _
  · exact ⟨s, step_of_not_running hr⟩

/-- Settles O13: the closed form of `k` decays, at 8, below the first wrap, and at it. -/
theorem eightDecaysDecrementOnce : Obligations.EightDecaysDecrementOnce := by
  intro s
  have hc := s.cycleCounter.isLt
  refine ⟨?_, fun k hk => ?_, ?_⟩
  · obtain ⟨hcount, hdelay, hsound⟩ := toNat_timerDecay_iterate s 8
    exact ⟨BitVec.eq_of_toNat_eq (by omega), by omega, by omega⟩
  · obtain ⟨_, hdelay, hsound⟩ := toNat_timerDecay_iterate s k
    rw [Nat.div_eq_of_lt (by omega)] at hdelay hsound
    exact ⟨BitVec.eq_of_toNat_eq hdelay, BitVec.eq_of_toNat_eq hsound⟩
  · obtain ⟨_, hdelay, hsound⟩ := toNat_timerDecay_iterate s (8 - s.cycleCounter.toNat)
    have hwrap : (s.cycleCounter.toNat + (8 - s.cycleCounter.toNat)) / 8 = 1 := by omega
    rw [hwrap] at hdelay hsound
    exact ⟨hdelay, hsound⟩

/-- Settles O19: a step that stops the core in step 4 is `raiseFault` on the state steps 1 to 3 left. -/
theorem executeFaultsArePrecise : Obligations.ExecuteFaultsArePrecise := by
  intro s t w hr hf h hstop
  have hbegin : (s.beginCycle w).status = .running := (beginCycle_status s w).trans hr
  rcases step_fetched_cases hr hf h with ⟨u, _, rfl⟩ | ⟨i, _, he⟩
  · exact absurd hbegin hstop
  · rcases exec_keepsStatusOrFaults i _ t he with hkeep | ⟨code, hraise⟩
    · exact absurd (hkeep.trans hbegin) hstop
    · cases hraise
      refine ⟨⟨code, ?_⟩, beginCycle_opcode s w, beginCycle_pc s w, beginCycle_drawFlag s w, decays_beginCycle s w,
        ((unchanged_beginCycle s w).mono ?_).trans ((unchanged_setStatus _ _).mono (by simp))⟩
      · rw [setStatus_status, beginCycle_pc, beginCycle_opcode, BitVec.add_sub_cancel]
      · simp +contextual [beginFields]

/-- Settles O5: the fetch and the decoder's answer select step 4's meaning. -/
theorem stepRunsDecodedInstruction : Obligations.StepRunsDecodedInstruction := fun _ _ _ => step_of_decode

/-- Settles O6: field by field, and the frame of `beginCycle`. -/
theorem stepsOneToThreeEffect : Obligations.StepsOneToThreeEffect := fun s w =>
  ⟨beginCycle_opcode s w, beginCycle_pc s w, beginCycle_drawFlag s w, decays_beginCycle s w, unchanged_beginCycle s w⟩

/-- Settles O8: there is no word to fetch, and a fetch fault writes the status alone. -/
theorem fetchFaultChangesOnlyStatus : Obligations.FetchFaultChangesOnlyStatus := by
  intro s hr hpc
  rw [step_of_fetchWord_none hr (fetchWord_of_ge (by omega)), raiseFetchFault_eq, State.setStatus]

/-- Settles O9: a faulted core is not running. -/
theorem faultedCoreIsFrozen : Obligations.FaultedCoreIsFrozen := by
  intro s code a op hs
  exact step_of_not_running (by simp [hs])

end Sys2Proof.Machine
end

section
/-! Step 4 of the control-flow instructions 0NNN to 4XNN and BNNN (41_control_flow R120 to R129), and the idle loop along
a run (60_exceptions R258). -/

namespace Sys2Proof.Machine

/-! ### Rows and jump targets -/

/-- The row of an instruction that is one word. -/
theorem decodesAs_of_word {w : Word} {i : Instr} (h : decode w = .instr i) : DecodesAs 0xFFFF#16 w fun _ => i := by
  intro v hv
  have hvw : v = w := (BitVec.and_allOnes (x := v)).symm.trans hv
  rw [hvw, h]

theorem toNat_zextAddr (nnn : Addr12) : (zextAddr nnn).toNat = nnn.toNat :=
  BitVec.toNat_setWidth_of_le (by decide)

/-- BNNN's target is the exact sum: it never wraps (R129, D5). -/
theorem toNat_zextAddr_add_zextByte (nnn : Addr12) (b : Byte) :
    (zextAddr nnn + zextByte b).toNat = nnn.toNat + b.toNat := by
  have hb : (zextByte b).toNat = b.toNat := BitVec.toNat_setWidth_of_le (by decide)
  have := nnn.isLt
  have := b.isLt
  rw [BitVec.toNat_add, toNat_zextAddr, hb]
  omega

section
variable {s : State}

/-- A jump to 0xFFF or above is seen at the next fetch (R102, D3). -/
theorem fetchWord_setPc_of_ge {a : Word} (h : 0xFFF ≤ a.toNat) : (s.setPc a).fetchWord = none :=
  fetchWord_of_ge (by rw [setPc_pc]; omega)

/-! ### Call and return with room on the stack, and without -/

theorem callTo_of_lt (target : Word) (h : s.sp.val < 16) : callTo target s =
    .next (((s.setStack (s.stack.set s.sp.val s.pc)).setSp ⟨s.sp.val + 1, by omega⟩).setPc target) := dif_pos h

theorem callTo_of_full (target : Word) (h : s.sp.val = 16) : callTo target s = raiseFault .stackOverflow s :=
  dif_neg (by omega)

theorem popReturn_of_pos (h : 0 < s.sp.val) : popReturn s =
    .next ((s.setSp ⟨s.sp.val - 1, by omega⟩).setPc (s.stack[s.sp.val - 1])) := dif_pos h

theorem popReturn_of_empty (h : s.sp.val = 0) : popReturn s = raiseFault .stackUnderflow s := dif_neg (by omega)

/-! ### The idle loop (R79, R258) -/

/-- A cycle that comes back to the pc it fetched from leaves the fields of steps 1 to 3 but pc. -/
theorem unchanged_beginCycle_setPc (s : State) (op : Word) :
    UnchangedExcept waitFields s ((s.beginCycle op).setPc s.pc) := by
  intro f hf
  cases f <;> simp_all [Field.agrees, waitFields]

/-- An idle loop depends on pc and memory only. -/
theorem AtIdleLoop.of_unchanged {t : State} (hs : AtIdleLoop s) (h : UnchangedExcept (.key :: waitFields) s t) :
    AtIdleLoop t := by
  obtain ⟨nnn, hpc, hf⟩ := hs
  have hpc' : t.pc = s.pc := h .pc (by decide)
  have hm : ∀ a, t.readMem a = s.readMem a := h .mem (by decide)
  exact ⟨nnn, hpc'.trans hpc, (fetchWord_congr hpc' hm).trans hf⟩

/-- The idle loop's cycle: steps 1 to 3, and the jump back. -/
theorem AtIdleLoop.step_eq (hs : AtIdleLoop s) (hr : s.status = .running) :
    ∃ op, step s = .next ((s.beginCycle op).setPc s.pc) := by
  obtain ⟨nnn, hpc, hf⟩ := hs
  rw [step_of_decode hr hf (decode_encode rfl), hpc]
  exact ⟨_, rfl⟩

/-- One move of a run at an idle loop changes the keys and what the loop's cycle changes. -/
theorem AtIdleLoop.afterMove_unchanged (hs : AtIdleLoop s) (hr : s.status = .running) {op : HostOp}
    (hp : op.KeepsProgram) : UnchangedExcept (.key :: waitFields) s (afterMove op s) := by
  rcases afterMove_cases op s hp with ⟨_, h⟩ | ⟨_, _, h | h⟩ | h | h
  · obtain ⟨w, hw⟩ := hs.step_eq hr
    rw [Host.Outcome.next.inj (h.symm.trans hw)]
    exact (unchanged_beginCycle_setPc s w).mono fun _ => List.mem_cons_of_mem _
  · rw [h]
    exact (unchanged_setKey s _).mono (by simp)
  · rw [h]
    exact .refl _ _
  · rw [h]
    exact (unchanged_setDrawFlag s false).mono (by decide)
  · rw [h]
    exact .refl _ _

end

/-- Along a run from an idle loop on, with no new program, the loop's frame holds. -/
theorem Run.unchanged_of_atIdleLoop {r : Run} {k : Nat} (hr : (r.state k).status = .running)
    (hs : AtIdleLoop (r.state k)) (hm : r.MovesFrom k HostOp.KeepsProgram) :
    ∀ j ≥ k, UnchangedExcept (.key :: waitFields) (r.state k) (r.state j) := by
  refine Run.induction hm (.refl _ _) fun op t hp hu => hu.trans ?_
  have hst : t.status = (r.state k).status := hu .status (by decide)
  exact (hs.of_unchanged hu).afterMove_unchanged (hst.trans hr) hp

/-! ### The settled statements -/

/-- Settles O27: with a live entry `popReturn` sets sp and pc, and with none it raises a fault. -/
theorem retPopsOrFaults : Obligations.RetPopsOrFaults := by
  refine ⟨decodesAs_of_word rfl, fun s hpos => ?_, fun s hempty => ?_⟩
  · exact ⟨_, popReturn_of_pos hpos, rfl, rfl,
      ((unchanged_setSp s _).mono (by simp)).trans ((unchanged_setPc _ _).mono (by simp))⟩
  · exact ⟨_, popReturn_of_empty hempty, stoppedBy_raiseFault s _⟩

/-- Settles O28: a jump is one pc write, so the idle loop's cycle comes back to its pc, along a run too. -/
theorem jumpSetsPc : Obligations.JumpSetsPc := by
  refine ⟨decodesAs_of_family (f := 0x1#4) rfl fun w hf => by simp only [decode, hf],
    fun nnn s => ⟨_, rfl, toNat_zextAddr nnn, unchanged_setPc s _, ?_⟩, fun s hr hs => ?_, fun r k hr hs hm => ?_⟩
  · rintro rfl
    exact fetchWord_setPc_of_ge (by decide)
  · obtain ⟨w, hw⟩ := hs.step_eq hr
    have frame := unchanged_beginCycle_setPc s w
    exact ⟨_, hw, hs.of_unchanged (frame.mono fun _ => List.mem_cons_of_mem _), decays_beginCycle s w,
      beginCycle_drawFlag s w, frame⟩
  · have frame := Run.unchanged_of_atIdleLoop hr hs hm
    exact ⟨⟨hr, .inl hs⟩, fun j hj => ⟨hs.of_unchanged (frame j hj), frame j hj⟩⟩

/-- Settles O29: with a free slot `callTo` sets the entry at sp, sp and pc, and with none it raises a fault. -/
theorem callPushesOrFaults : Obligations.CallPushesOrFaults := by
  refine ⟨decodesAs_of_family (f := 0x2#4) rfl fun w hf => by simp only [decode, hf],
    fun nnn s hfree => ?_, fun nnn s hfull => ?_⟩
  · exact ⟨_, callTo_of_lt _ hfree, Vector.getElem_set_self hfree,
      fun j hj hne => Vector.getElem_set_ne hfree hj hne.symm, rfl, toNat_zextAddr nnn,
      (((unchanged_setStack s _).mono (by simp)).trans ((unchanged_setSp _ _).mono (by simp))).trans
        ((unchanged_setPc _ _).mono (by simp))⟩
  · exact ⟨_, callTo_of_full _ hfull, stoppedBy_raiseFault s _⟩

/-- Settles O30: both are one `skipIf`. -/
theorem immediateSkips : Obligations.ImmediateSkips := by
  refine ⟨decodesAs_of_family (f := 0x3#4) rfl fun w hf => by simp only [decode, hf],
    decodesAs_of_family (f := 0x4#4) rfl fun w hf => by simp only [decode, hf], fun x nn s => ⟨?_, ?_⟩⟩
  · exact ⟨_, rfl, by simp [skipIf_pc], unchanged_skipIf s _⟩
  · exact ⟨_, rfl, by simp [skipIf_pc], unchanged_skipIf s _⟩

/-- Settles O32: one pc write, whose target does not wrap. -/
theorem jumpWithOffset : Obligations.JumpWithOffset := by
  refine ⟨decodesAs_of_family (f := 0xB#4) rfl fun w hf => by simp only [decode, hf], fun nnn s => ?_⟩
  have htarget := toNat_zextAddr_add_zextByte nnn (s.getV 0x0#4)
  exact ⟨_, rfl, htarget, unchanged_setPc s _, fun hge => fetchWord_setPc_of_ge (htarget ▸ hge)⟩

/-- Settles O25: step 4 answers its own state, so the cycle is steps 1 to 3. -/
theorem sysIsNoOp : Obligations.SysIsNoOp := by
  refine ⟨fun w hw => decode_of_family0 (family_of_mask hw), fun _ _ => rfl, fun s nnn hi => ?_⟩
  obtain ⟨hr, w, hf, hd⟩ := hi
  exact ⟨_, step_of_decode hr hf hd, beginCycle_pc s w, unchanged_beginCycle s w⟩

/-- Settles O26: a framebuffer of zeros, and two field writes. -/
theorem clsClearsFramebuffer : Obligations.ClsClearsFramebuffer := by
  refine ⟨decodesAs_of_word rfl, fun s => ⟨_, rfl, fun _ => BitVec.getLsbD_zero, rfl, ?_⟩⟩
  exact ((unchanged_setGraphic s _).mono (by simp)).trans ((unchanged_setDrawFlag _ _).mono (by simp))

end Sys2Proof.Machine
end

section
/-! Step 4 of the register and arithmetic instructions (42_register_arith_memory R150 to R163, R167): the row of each
word, the numbers behind the results and flags, and the write order of R111. -/

namespace Sys2Proof.Machine

/-! ### Rows -/

/-- A row with registers X and Y and a fixed low nibble: the instruction's encoding gives its fixed bits. -/
theorem decodesAs_of_encode_XYn {mtch : Word} {i : Nibble → Nibble → Instr} (hwf : ∀ x y, (i x y).wf = true)
    (he : ∀ x y, encode (i x y) = formatXYN (family mtch) x y (fieldN mtch)) :
    DecodesAs 0xF00F#16 mtch fun w => i (fieldX w) (fieldY w) := by
  intro w hw
  obtain ⟨hf, hn⟩ := fields_of_mask_F00F hw
  have henc : encode (i (fieldX w) (fieldY w)) = w := (he _ _).trans (formatXYN_of_low hf hn)
  exact (congrArg decode henc).symm.trans (decode_encode (hwf _ _))

/-- A row with a register X and a fixed low byte. -/
theorem decodesAs_of_encode_Xnn {mtch : Word} {i : Nibble → Instr} (hwf : ∀ x, (i x).wf = true)
    (he : ∀ x, encode (i x) = formatXNN (family mtch) x (fieldNN mtch)) :
    DecodesAs 0xF0FF#16 mtch fun w => i (fieldX w) := by
  intro w hw
  obtain ⟨hf, hn⟩ := fields_of_mask_F0FF hw
  have henc : encode (i (fieldX w)) = w := (he _).trans (formatXNN_of_low hf hn)
  exact (congrArg decode henc).symm.trans (decode_encode (hwf _))

/-! ### Results and flags as numbers -/

section
variable (a b : Byte)

theorem toNat_sum8 : (sum8 a b).toNat = (a.toNat + b.toNat) % 256 := BitVec.toNat_ofNat ..

theorem toNat_diff8 : ((diff8 a b).toNat : Int) = ((a.toNat : Int) - b.toNat) % 256 := by
  rw [diff8, BitVec.toNat_ofInt, Int.toNat_of_nonneg (Int.emod_nonneg _ (by decide))]
  rfl

theorem toNat_flagByte (c : Bool) : (flagByte c).toNat = if c then 1 else 0 := by
  cases c <;> rfl

theorem toNat_carryFlag : (carryFlag a b).toNat = if a.toNat + b.toNat > 255 then 1 else 0 := by
  simp only [carryFlag, toNat_flagByte, decide_eq_true_eq]

theorem toNat_noBorrowFlag : (noBorrowFlag a b).toNat = if a.toNat ≥ b.toNat then 1 else 0 := by
  simp only [noBorrowFlag, toNat_flagByte, decide_eq_true_eq]

theorem toNat_shrFlag : (shrFlag a).toNat = a.toNat % 2 := by
  rw [shrFlag, toNat_flagByte, BitVec.getLsbD, Nat.testBit_zero]
  simp only [decide_eq_true_eq]
  split <;> omega

theorem toNat_shlFlag : (shlFlag a).toNat = a.toNat / 128 := by
  have := a.isLt
  rw [shlFlag, toNat_flagByte, BitVec.getLsbD, Nat.testBit_eq_decide_div_mod_eq]
  simp only [decide_eq_true_eq]
  split <;> omega

theorem toNat_shiftRight_one : (a >>> 1).toNat = a.toNat / 2 := by
  rw [BitVec.toNat_ushiftRight, Nat.shiftRight_one]

theorem toNat_shiftLeft_one : (a <<< 1).toNat = a.toNat * 2 % 256 := by
  rw [BitVec.toNat_shiftLeft, Nat.shiftLeft_eq, pow_one]

theorem toNat_add_zextByte (i : Word) : (i + zextByte a).toNat = (i.toNat + a.toNat) % 65536 := by
  rw [BitVec.toNat_add, zextByte, BitVec.toNat_setWidth_of_le (by decide)]

/-- FX29's address is never reduced: it is at most 0x050 + 5 · 255 (D16). -/
theorem toNat_glyphAddr : (glyphAddr a).toNat = 0x050 + 5 * a.toNat := by
  have := a.isLt
  simp only [glyphAddr, Config.fontBase, Config.glyphBytes, BitVec.toNat_ofNat]
  omega

end

/-! ### The result and the flag after the two writes (R111, D11) -/

section
variable (s : State) (flag result : Byte) {x : Nibble}

theorem getV_setFlagThen_dest : (s.setFlagThen flag x result).getV x = result := by
  rw [getV_setFlagThen, if_pos rfl]

theorem getV_setFlagThen_VF (hx : x ≠ VF) : (s.setFlagThen flag x result).getV VF = flag := by
  rw [getV_setFlagThen, if_neg hx.symm, if_pos rfl]

end

/-! ### The settled statements -/

/-- Settles O33: both are one register write. -/
theorem immediateLoadAndAdd : Obligations.ImmediateLoadAndAdd := by
  refine ⟨decodesAs_of_family (f := 0x6#4) rfl fun w hf => by simp only [decode, hf],
    decodesAs_of_family (f := 0x7#4) rfl fun w hf => by simp only [decode, hf], fun x nn s => ⟨?_, ?_⟩⟩
  · exact ⟨_, rfl, getV_setV_same s x nn, regs_setV s x _, unchanged_setV s x _⟩
  · refine ⟨_, rfl, ?_, regs_setV s x _, unchanged_setV s x _⟩
    rw [getV_setV_same, toNat_sum8]

/-- Settles O34: each is one register write, of the copy or of a bitwise operation. -/
theorem registerMoveAndLogic : Obligations.RegisterMoveAndLogic := by
  refine ⟨decodesAs_of_encode_XYn (fun _ _ => rfl) fun _ _ => rfl,
    decodesAs_of_encode_XYn (fun _ _ => rfl) fun _ _ => rfl,
    decodesAs_of_encode_XYn (fun _ _ => rfl) fun _ _ => rfl,
    decodesAs_of_encode_XYn (fun _ _ => rfl) fun _ _ => rfl, fun x y s => ⟨?_, ?_, ?_, ?_⟩⟩
  · exact ⟨_, rfl, getV_setV_same s x _, regs_setV s x _, unchanged_setV s x _⟩
  · refine ⟨_, rfl, fun b _ => ?_, regs_setV s x _, unchanged_setV s x _⟩
    rw [getV_setV_same, BitVec.getLsbD_or]
  · refine ⟨_, rfl, fun b _ => ?_, regs_setV s x _, unchanged_setV s x _⟩
    rw [getV_setV_same, BitVec.getLsbD_and]
  · refine ⟨_, rfl, fun b _ => ?_, regs_setV s x _, unchanged_setV s x _⟩
    rw [getV_setV_same, BitVec.getLsbD_xor]

/-- Settles O35: the carry to VF, then the sum to V[X]. -/
theorem addSetsCarry : Obligations.AddSetsCarry := by
  refine ⟨decodesAs_of_encode_XYn (fun _ _ => rfl) fun _ _ => rfl, fun x y s => ?_⟩
  refine ⟨_, rfl, ?_, fun hx => ?_, regs_setFlagThen s _ _ x, unchanged_setFlagThen s _ _ x⟩
  · rw [getV_setFlagThen_dest, toNat_sum8]
  · rw [getV_setFlagThen_VF s _ _ hx, toNat_carryFlag]

/-- Settles O36: the no-borrow flag to VF, then V[X] - V[Y] to V[X]. -/
theorem subSetsNoBorrow : Obligations.SubSetsNoBorrow := by
  refine ⟨decodesAs_of_encode_XYn (fun _ _ => rfl) fun _ _ => rfl, fun x y s => ?_⟩
  refine ⟨_, rfl, ?_, fun hx => ?_, regs_setFlagThen s _ _ x, unchanged_setFlagThen s _ _ x⟩
  · rw [getV_setFlagThen_dest, toNat_diff8]
  · rw [getV_setFlagThen_VF s _ _ hx, toNat_noBorrowFlag]

/-- Settles O37: the no-borrow flag to VF, then V[Y] - V[X] to V[X]. -/
theorem subnSetsNoBorrow : Obligations.SubnSetsNoBorrow := by
  refine ⟨decodesAs_of_encode_XYn (fun _ _ => rfl) fun _ _ => rfl, fun x y s => ?_⟩
  refine ⟨_, rfl, ?_, fun hx => ?_, regs_setFlagThen s _ _ x, unchanged_setFlagThen s _ _ x⟩
  · rw [getV_setFlagThen_dest, toNat_diff8]
  · rw [getV_setFlagThen_VF s _ _ hx, toNat_noBorrowFlag]

/-- Settles O38: the bit shifted out to VF, then the shifted V[X]. -/
theorem shiftsCaptureBitOut : Obligations.ShiftsCaptureBitOut := by
  refine ⟨decodesAs_of_encode_XYn (fun _ _ => rfl) fun _ _ => rfl,
    decodesAs_of_encode_XYn (fun _ _ => rfl) fun _ _ => rfl, fun x y s => ⟨?_, ?_⟩⟩
  · refine ⟨_, rfl, ?_, fun hx => ?_, regs_setFlagThen s _ _ x, unchanged_setFlagThen s _ _ x⟩
    · rw [getV_setFlagThen_dest, toNat_shiftRight_one]
    · rw [getV_setFlagThen_VF s _ _ hx, toNat_shrFlag]
  · refine ⟨_, rfl, ?_, fun hx => ?_, regs_setFlagThen s _ _ x, unchanged_setFlagThen s _ _ x⟩
    · rw [getV_setFlagThen_dest, toNat_shiftLeft_one]
    · rw [getV_setFlagThen_VF s _ _ hx, toNat_shlFlag]

/-- Settles O39: one write of I. -/
theorem loadIndex : Obligations.LoadIndex :=
  ⟨decodesAs_of_family (f := 0xA#4) rfl fun w hf => by simp only [decode, hf],
    fun nnn s => ⟨_, rfl, toNat_zextAddr nnn, unchanged_setI s _⟩⟩

/-- Settles O40: each is one write of I. -/
theorem indexArithmetic : Obligations.IndexArithmetic :=
  ⟨decodesAs_of_encode_Xnn (fun _ => rfl) fun _ => rfl, decodesAs_of_encode_Xnn (fun _ => rfl) fun _ => rfl,
    fun _ s => ⟨⟨_, rfl, toNat_add_zextByte _ s.I, unchanged_setI s _⟩,
      ⟨_, rfl, toNat_glyphAddr _, unchanged_setI s _⟩⟩⟩

/-- Settles O41: the digit's glyph starts at byte 5 · V[X] of the font, and FX29 writes no memory. -/
theorem glyphAddressFindsFontBytes : Obligations.GlyphAddressFindsFontBytes := by
  intro font x s hfont hdigit
  refine ⟨_, rfl, fun k hk => ?_⟩
  have haddr : (s.setI (glyphAddr (s.getV x))).dataAddr k = 0x050 + (5 * (s.getV x).toNat + k) := by
    rw [State.dataAddr, setI_I, toNat_glyphAddr, Nat.add_assoc]
  rw [haddr, setI_readMem, hfont _ (by omega)]

/-- Settles O46: one register write, of the drawn byte under the mask, and one step of the draw counter. -/
theorem randomByteIsMasked : Obligations.RandomByteIsMasked := by
  refine ⟨decodesAs_of_family (f := 0xC#4) rfl fun w hf => by simp only [decode, hf], fun x nn s => ?_⟩
  refine ⟨_, rfl, fun b _ => ?_, rfl, regs_setV s x _, ?_⟩
  · rw [State.advanceRng, setRngDraws_getV, getV_setV_same, State.drawByte, BitVec.getLsbD_and]
  · exact ((unchanged_setV s x _).mono (by simp)).trans ((unchanged_setRngDraws _ _).mono (by simp))

end Sys2Proof.Machine
end

section
/-! Step 4 of FX33, FX55 and FX65 (42_register_arith_memory R164 to R166), with all addresses in range and not. -/

namespace Sys2Proof.Machine

/-! ### Transfers in range, and their faults (20_memory R52, R53) -/

section
variable {x : Nibble} {s : State}

theorem dataAddr_eq_add (s : State) (k : Nat) : s.dataAddr k = s.dataAddr 0 + k := rfl

/-- A store at I leaves byte `j` at I + j. -/
theorem readMem_store_dataAddr {bs : List Byte} {j : Nat} (hj : j < bs.length) :
    (s.setMem (Memory.writeList s.mem (s.dataAddr 0) bs)).readMem (s.dataAddr j) = bs[j] :=
  readMem_setMem_writeList_add hj

theorem storeBytes_of_gt {base : Nat} {bs : List Byte} (hne : bs ≠ []) (h : 4096 < base + bs.length) :
    storeBytes base bs s = raiseFault .writeOutOfRange s := by
  rcases storeBytes_cases base bs s with ⟨hempty | hle, _⟩ | ⟨_, _, e⟩
  · exact absurd hempty hne
  · omega
  · exact e

theorem exec_ldBVx_of_gt (h : 0xFFF < s.dataAddr 2) : exec (.ldBVx x) s = raiseFault .writeOutOfRange s :=
  storeBytes_of_gt (List.ne_nil_of_length_eq_add_one (length_bcdDigits _))
    (by rw [dataAddr_eq_add] at h; rw [length_bcdDigits]; omega)

theorem exec_ldMemVx_of_gt (h : 0xFFF < s.dataAddr x.toNat) :
    exec (.ldMemVx x) s = raiseFault .writeOutOfRange s := by
  have hlen : (s.regsUpTo x).length = x.toNat + 1 := length_regsUpTo s x
  rw [dataAddr_eq_add] at h
  exact storeBytes_of_gt (List.ne_nil_of_length_eq_add_one hlen) (by omega)

theorem exec_ldVxMem_of_le (h : s.dataAddr x.toNat ≤ 0xFFF) :
    exec (.ldVxMem x) s = .next (s.setRegs (loadRegs s.mem (s.dataAddr 0) (x.toNat + 1) s.v)) :=
  if_pos ((spanInRange_iff _ _).2 (.inr (by rw [dataAddr_eq_add] at h; omega)))

theorem exec_ldVxMem_of_gt (h : 0xFFF < s.dataAddr x.toNat) :
    exec (.ldVxMem x) s = raiseFault .readOutOfRange s :=
  if_neg fun hspan => by
    have := (spanInRange_iff _ _).1 hspan
    rw [dataAddr_eq_add] at h
    omega

end

/-! ### The settled statements -/

/-- Settles O42: three bytes stored at I, or a fault. -/
theorem bcdStoresDigits : Obligations.BcdStoresDigits := by
  refine ⟨decodesAs_of_encode_Xnn (fun _ => rfl) fun _ => rfl, fun x s hin => ?_, fun x s hout => ?_⟩
  · obtain ⟨hundreds, tens, units⟩ := toNat_bcdDigits (s.getV x)
    refine ⟨_, exec_ldBVx_of_le hin, ?_, ?_, ?_, fun a ha => ?_, unchanged_setMem s _⟩
    · rw [readMem_store_dataAddr (by simp), hundreds]
    · rw [readMem_store_dataAddr (by simp), tens]
    · rw [readMem_store_dataAddr (by simp), units]
    · rw [dataAddr_eq_add s 2] at ha
      exact readMem_setMem_writeList_of_outside (by rw [length_bcdDigits]; omega)
  · exact ⟨_, exec_ldBVx_of_gt hout, stoppedBy_raiseFault s _⟩

/-- Settles O43: the registers up to V[X] stored at I, or a fault. -/
theorem registerDump : Obligations.RegisterDump := by
  refine ⟨decodesAs_of_encode_Xnn (fun _ => rfl) fun _ => rfl, fun x s hin => ?_, fun x s hout => ?_⟩
  · refine ⟨_, exec_ldMemVx_of_le hin, fun r hr => ?_, fun a ha => ?_, unchanged_setMem s _⟩
    · have hlt : r.toNat < (s.regsUpTo x).length := by rw [length_regsUpTo]; omega
      rw [readMem_store_dataAddr hlt, getElem_regsUpTo, BitVec.ofNat_toNat, BitVec.setWidth_eq]
    · rw [dataAddr_eq_add s x.toNat] at ha
      exact readMem_setMem_writeList_of_outside (by rw [length_regsUpTo]; omega)
  · exact ⟨_, exec_ldMemVx_of_gt hout, stoppedBy_raiseFault s _⟩

/-- Settles O44: the registers up to V[X] read from I on, or a fault. -/
theorem registerLoad : Obligations.RegisterLoad := by
  refine ⟨decodesAs_of_encode_Xnn (fun _ => rfl) fun _ => rfl, fun x s hin => ?_, fun x s hout => ?_⟩
  · refine ⟨_, exec_ldVxMem_of_le hin, fun r => ?_, unchanged_setRegs s _⟩
    simp only [getV_setRegs_loadRegs, Nat.lt_succ_iff, dataAddr_eq_add s r.toNat, State.readMem]
  · exact ⟨_, exec_ldVxMem_of_gt hout, stoppedBy_raiseFault s _⟩

/-- Settles O45: the dump's byte for a register is what the load reads into it, since I and memory agree. -/
theorem dumpThenLoadRestores : Obligations.DumpThenLoadRestores := by
  intro x s t u hin hdump hI hmem
  obtain ⟨-, dumps, -⟩ := registerDump
  obtain ⟨-, loads, -⟩ := registerLoad
  obtain ⟨t', ht', hstored, -, -⟩ := dumps x s hin
  cases ht'.symm.trans hdump
  have haddr (k : Nat) : u.dataAddr k = s.dataAddr k := congrArg (·.toNat + k) hI
  obtain ⟨r, hr, hloaded, -⟩ := loads x u ((haddr _).trans_le hin)
  refine ⟨r, hr, fun j hj => ?_⟩
  rw [hloaded, if_pos hj, haddr, hmem, hstored j hj]

end Sys2Proof.Machine
end

section
/-! Step 4 of DXYN (43_display R200 to R204): what a draw in range leaves, when each of its two checks fails, and that a
second draw undoes the first. -/

namespace Sys2Proof.Machine

/-! ### The state a draw in range leaves (R200, R203) -/

/-- `s` with an 8 × `n` sprite drawn at (x0, y0): what DXYN answers when both its checks pass (`exec_drw_of_inRange`). -/
def State.withSprite (s : State) (x0 y0 n : Nat) : State :=
  ((s.setGraphic (s.drawn x0 y0 n).1).setV VF (flagByte (s.drawn x0 y0 n).2)).setDrawFlag true

section
variable (s : State) (x0 y0 n : Nat)

@[simp] theorem withSprite_drawFlag : (s.withSprite x0 y0 n).drawFlag = true := rfl
@[simp] theorem withSprite_status : (s.withSprite x0 y0 n).status = s.status := rfl
@[simp] theorem withSprite_dataAddr (k : Nat) : (s.withSprite x0 y0 n).dataAddr k = s.dataAddr k := rfl
@[simp] theorem withSprite_spriteBit (r c : Nat) : (s.withSprite x0 y0 n).spriteBit r c = s.spriteBit r c := rfl

theorem withSprite_getV_VF : (s.withSprite x0 y0 n).getV VF = flagByte (s.drawn x0 y0 n).2 := by
  rw [State.withSprite, setDrawFlag_getV, getV_setV_same]

theorem regs_withSprite : RegsUnchangedExcept [VF] s (s.withSprite x0 y0 n) := fun r hr =>
  regs_setV (s.setGraphic _) VF _ r hr

theorem unchanged_withSprite : UnchangedExcept [.v, .graphic, .drawFlag] s (s.withSprite x0 y0 n) :=
  (((unchanged_setGraphic s _).mono (by simp)).trans ((unchanged_setV _ VF _).mono (by simp))).trans
    ((unchanged_setDrawFlag _ true).mono (by simp))

/-- A sprite of no rows clears VF and sets drawFlag, and no more. -/
theorem withSprite_zero : s.withSprite x0 y0 0 = (s.setV VF 0#8).setDrawFlag true := rfl

/-- Some 1 bit of the sprite meets a 1 cell (R203). -/
def State.SpriteCollides : Prop :=
  ∃ r < n, ∃ c < 8, pixel s.graphic (cellIndex x0 y0 r c) = true ∧ s.spriteBit r c = true

theorem drawn_hit_iff : (s.drawn x0 y0 n).2 = true ↔ s.SpriteCollides x0 y0 n := by
  rw [State.drawn, drawCells_hit _ _ _ (nodup_spriteCells s x0 y0 n)]
  constructor
  · rintro (h | ⟨p, hp, hcell, hbit⟩)
    · cases h
    · obtain ⟨r, hr, c, hc, rfl⟩ := (mem_spriteCells s x0 y0 n p).1 hp
      exact ⟨r, hr, c, hc, hcell, hbit⟩
  · rintro ⟨r, hr, c, hc, hcell, hbit⟩
    exact .inr ⟨_, (mem_spriteCells s x0 y0 n _).2 ⟨r, hr, c, hc, rfl⟩, hcell, hbit⟩

variable {s x0 y0 n}

theorem withSprite_getV_VF_of_collides (h : s.SpriteCollides x0 y0 n) : (s.withSprite x0 y0 n).getV VF = 1#8 := by
  rw [withSprite_getV_VF, (drawn_hit_iff s x0 y0 n).2 h, flagByte, if_pos rfl]

theorem withSprite_getV_VF_of_not_collides (h : ¬ s.SpriteCollides x0 y0 n) :
    (s.withSprite x0 y0 n).getV VF = 0#8 := by
  rw [withSprite_getV_VF, flagByte, if_neg fun hit => h ((drawn_hit_iff s x0 y0 n).1 hit)]

/-- Each cell of the sprite is XORed with its bit. -/
theorem pixel_withSprite_cell {r c : Nat} (hr : r < n) (hc : c < 8) (hin : cellIndex x0 y0 r c < 2048) :
    pixel (s.withSprite x0 y0 n).graphic (cellIndex x0 y0 r c) =
      (pixel s.graphic (cellIndex x0 y0 r c) ^^ s.spriteBit r c) :=
  pixel_drawCells_of_mem _ _ _ _ _ (nodup_spriteCells s x0 y0 n) hin
    ((mem_spriteCells s x0 y0 n _).2 ⟨r, hr, c, hc, rfl⟩)

/-- Every cell outside the sprite is as before. -/
theorem pixel_withSprite_of_not_cell {k : Nat} (hk : ∀ r < n, ∀ c < 8, k ≠ cellIndex x0 y0 r c) :
    pixel (s.withSprite x0 y0 n).graphic k = pixel s.graphic k := by
  refine pixel_drawCells_of_not_mem _ _ _ _ fun p hp hpk => ?_
  obtain ⟨r, hr, c, hc, rfl⟩ := (mem_spriteCells s x0 y0 n p).1 hp
  exact hk r hr c hc hpk.symm

/-- The same sprite twice at the same place: each of its cells is XORed twice with the same bit (R204). -/
theorem pixel_withSprite_twice (hbox : ∀ r < n, ∀ c < 8, cellIndex x0 y0 r c < 2048) (k : Nat) :
    pixel ((s.withSprite x0 y0 n).withSprite x0 y0 n).graphic k = pixel s.graphic k := by
  by_cases hk : ∀ r < n, ∀ c < 8, k ≠ cellIndex x0 y0 r c
  · rw [pixel_withSprite_of_not_cell hk, pixel_withSprite_of_not_cell hk]
  · push Not at hk
    obtain ⟨r, hr, c, hc, rfl⟩ := hk
    rw [pixel_withSprite_cell hr hc (hbox r hr c hc), pixel_withSprite_cell hr hc (hbox r hr c hc),
      withSprite_spriteBit, Bool.xor_assoc, Bool.xor_self, Bool.xor_false]
end

/-! ### The two checks of DXYN, in their order (R200, R202, R244, D23) -/

/-- The read check, byte by byte. -/
theorem spanInRange_dataAddr_iff (s : State) (n : Nat) :
    spanInRange (s.dataAddr 0) n = true ↔ ∀ r < n, s.dataAddr r ≤ 0xFFF := by
  rw [spanInRange_iff]
  constructor
  · intro h r hr
    rw [dataAddr_eq_add]
    omega
  · intro h
    by_cases hn : n = 0
    · exact .inl hn
    · have hlast := h (n - 1) (by omega)
      rw [dataAddr_eq_add] at hlast
      exact .inr (by omega)

section
variable {x y n : Nibble} {s : State}

theorem exec_drw_of_inRange (hread : ∀ r < n.toNat, s.dataAddr r ≤ 0xFFF)
    (hbox : ∀ r < n.toNat, ∀ c < 8, cellIndex (s.getV x).toNat (s.getV y).toNat r c < 2048) :
    exec (.drw x y n) s = .next (s.withSprite (s.getV x).toNat (s.getV y).toNat n.toNat) :=
  (if_pos ((spanInRange_dataAddr_iff s _).2 hread)).trans (if_pos ((cellsInRange_eq_true _ _ _).2 hbox))

theorem exec_drw_of_read_gt {r : Nat} (hr : r < n.toNat) (hout : 0xFFF < s.dataAddr r) :
    exec (.drw x y n) s = raiseFault .readOutOfRange s :=
  if_neg fun hspan => absurd ((spanInRange_dataAddr_iff s _).1 hspan r hr) (by omega)

theorem exec_drw_of_cell_ge (hread : ∀ r < n.toNat, s.dataAddr r ≤ 0xFFF) {r c : Nat} (hr : r < n.toNat) (hc : c < 8)
    (hout : 2048 ≤ cellIndex (s.getV x).toNat (s.getV y).toNat r c) :
    exec (.drw x y n) s = raiseFault .framebufferOutOfRange s :=
  (if_pos ((spanInRange_dataAddr_iff s _).2 hread)).trans
    (if_neg fun hcells => absurd ((cellsInRange_eq_true _ _ _).1 hcells r hr c hc) (by omega))

/-- The last sprite byte has the highest address. -/
theorem dataAddr_le_of_last {m : Nat} (hlast : s.dataAddr (m - 1) ≤ 0xFFF) : ∀ r < m, s.dataAddr r ≤ 0xFFF := by
  intro r hr
  rw [dataAddr_eq_add] at hlast ⊢
  omega
end

theorem cellIndex_eq (x0 y0 r c : Nat) : cellIndex x0 y0 r c = (y0 + r) * 64 + (x0 + c) := rfl

/-! ### The settled statements -/

/-- Settles O48: both checks pass, and the answer is `withSprite` at the registers as they were. -/
theorem drawTogglesSprite : Obligations.DrawTogglesSprite := by
  refine ⟨decodesAs_of_family (f := 0xD#4) rfl fun w hf => by simp only [decode, hf], fun x y n s hread hbox => ?_⟩
  exact ⟨_, exec_drw_of_inRange hread hbox, fun r hr c hc => pixel_withSprite_cell hr hc (hbox r hr c hc),
    fun k hk => pixel_withSprite_of_not_cell hk, withSprite_getV_VF_of_collides, withSprite_getV_VF_of_not_collides,
    withSprite_drawFlag s _ _ _, regs_withSprite s _ _ _, unchanged_withSprite s _ _ _⟩

/-- Settles O49: the last byte decides the read check, and the last pixel of the last row the framebuffer check. -/
theorem drawFaultsInOrder : Obligations.DrawFaultsInOrder := by
  intro x y n s
  refine ⟨fun hn hread => ?_, fun hn hread hcell => ?_, fun hn hread hcell => ?_, fun hn => ?_⟩
  · exact ⟨_, exec_drw_of_read_gt (r := n.toNat - 1) (by omega) hread, stoppedBy_raiseFault s _⟩
  · have hlast : 2048 ≤ cellIndex (s.getV x).toNat (s.getV y).toNat (n.toNat - 1) 7 := by
      rw [cellIndex_eq]
      omega
    exact ⟨_, exec_drw_of_cell_ge (dataAddr_le_of_last hread) (by omega) (by omega) hlast, stoppedBy_raiseFault s _⟩
  · refine ⟨_, exec_drw_of_inRange (dataAddr_le_of_last hread) fun r hr c hc => ?_, withSprite_drawFlag s _ _ _,
      withSprite_status s _ _ _⟩
    rw [cellIndex_eq]
    omega
  · have hdraw := exec_drw_of_inRange (x := x) (y := y) (n := n) (s := s) (by omega) (by omega)
    rw [hn, withSprite_zero] at hdraw
    refine ⟨_, hdraw, getV_setV_same s VF _, rfl, regs_setV s VF _, ?_⟩
    exact ((unchanged_setV s VF _).mono (by simp)).trans ((unchanged_setDrawFlag _ true).mono (by simp))

/-- Settles O50: the first draw writes neither I, memory nor a register but VF, so the second draws the same sprite at the
same place. -/
theorem drawTwiceErases : Obligations.DrawTwiceErases := by
  intro x y n s t hx hy hread hbox hdraw
  cases (exec_drw_of_inRange hread hbox).symm.trans hdraw
  have hregs := regs_withSprite s (s.getV x).toNat (s.getV y).toNat n.toNat
  have hvx := hregs x (by simpa using hx)
  have hvy := hregs y (by simpa using hy)
  refine ⟨_, exec_drw_of_inRange (by simpa only [withSprite_dataAddr] using hread) (by rwa [hvx, hvy]), fun k => ?_⟩
  rw [hvx, hvy]
  exact pixel_withSprite_twice hbox k

end Sys2Proof.Machine
end

section
/-! Step 4 of the input and timer instructions (44_input_timer R220 to R225): the key index of EX9E and EXA1 in range and
not, FX0A with and without a pressed key, and the timers after steps 1 to 3. -/

namespace Sys2Proof.Machine

section
variable {x : Nibble} {s : State}

/-! ### Keys (R220 to R222) -/

theorem exec_skp_of_le (h : (s.getV x).toNat ≤ 15) :
    exec (.skp x) s = .next (s.skipIf (s.keyDown (s.getV x).toNat)) := if_pos h

theorem exec_sknp_of_le (h : (s.getV x).toNat ≤ 15) :
    exec (.sknp x) s = .next (s.skipIf (!s.keyDown (s.getV x).toNat)) := if_pos h

theorem exec_skp_of_gt (h : 15 < (s.getV x).toNat) : exec (.skp x) s = raiseFault .keyIndexOutOfRange s :=
  if_neg (by omega)

theorem exec_sknp_of_gt (h : 15 < (s.getV x).toNat) : exec (.sknp x) s = raiseFault .keyIndexOutOfRange s :=
  if_neg (by omega)

theorem exec_ldVxK_of_firstKey {k : Nat} (h : s.firstKey = some k) :
    exec (.ldVxK x) s = .next (s.setV x (BitVec.ofNat 8 k)) := by
  rw [exec, execLdVxK, h]

theorem exec_ldVxK_of_noKey (h : s.firstKey = none) : exec (.ldVxK x) s = .next s.rewind := by
  rw [exec, execLdVxK, h]

/-- The waiting FX0A's cycle: steps 1 to 3, and the rewind. -/
theorem WaitsForKey.step_eq (hs : WaitsForKey x s) : ∃ op, step s = .next (s.beginCycle op).rewind := by
  obtain ⟨⟨hr, op, hf, hd⟩, hk⟩ := hs
  have hnone : (s.beginCycle op).firstKey = none := (firstKey_eq_none _).2 (by simpa using hk)
  exact ⟨op, (step_of_decode hr hf hd).trans (exec_ldVxK_of_noKey hnone)⟩

/-! ### Timers (R106, R223 to R225, R249) -/

theorem soundActive_iff : s.soundActive = true ↔ s.soundTimer ≠ 0#8 := by
  rw [State.soundActive, decide_eq_true_eq, gt_iff_lt, Nat.pos_iff_ne_zero]
  exact BitVec.toNat_ne_iff_ne (y := 0#8)

end

/-! ### The settled statements -/

/-- Settles O51: an index up to 15 gives one `skipIf`, and one above it raises a fault. -/
theorem keySkips : Obligations.KeySkips := by
  refine ⟨decodesAs_of_encode_Xnn (fun _ => rfl) fun _ => rfl, decodesAs_of_encode_Xnn (fun _ => rfl) fun _ => rfl,
    fun x s hle => ⟨?_, ?_⟩, fun x s hgt => ⟨?_, ?_⟩⟩
  · exact ⟨_, exec_skp_of_le hle, skipIf_pc s _, unchanged_skipIf s _⟩
  · refine ⟨_, exec_sknp_of_le hle, ?_, unchanged_skipIf s _⟩
    cases hk : s.keyDown (s.getV x).toNat <;> simp [skipIf_pc]
  · exact ⟨_, exec_skp_of_gt hgt, stoppedBy_raiseFault s _⟩
  · exact ⟨_, exec_sknp_of_gt hgt, stoppedBy_raiseFault s _⟩

/-- Settles O52: the scan finds the lowest pressed key and stores it, or finds none, so the rewind undoes step 2 and the
wait goes on. -/
theorem keyWaitBlocksOrStores : Obligations.KeyWaitBlocksOrStores := by
  refine ⟨decodesAs_of_encode_Xnn (fun _ => rfl) fun _ => rfl, fun x s k hlt hdown hlow => ?_, fun x s hk => ?_,
    fun x s hi hk => ?_⟩
  · have hfirst : s.firstKey = some k := (firstKey_eq_some s k).2 ⟨hlt, hdown, hlow⟩
    refine ⟨_, exec_ldVxK_of_firstKey hfirst, ?_, regs_setV s x _, unchanged_setV s x _⟩
    rw [getV_setV_same, BitVec.toNat_ofNat, Nat.mod_eq_of_lt (by omega)]
  · exact ⟨_, exec_ldVxK_of_noKey ((firstKey_eq_none s).2 hk), rfl, unchanged_setPc s _⟩
  · have hs : WaitsForKey x s := ⟨hi, hk⟩
    obtain ⟨op, hstep⟩ := hs.step_eq
    have frame := hs.step_unchanged hstep
    exact ⟨_, hstep, beginCycle_drawFlag s op, decays_beginCycle s op, (hs.of_unchanged frame).1, frame⟩

/-- Settles O53: each is one write of a register or a timer, in a cycle on the state steps 1 to 3 left. -/
theorem timerTransfers : Obligations.TimerTransfers := by
  refine ⟨decodesAs_of_encode_Xnn (fun _ => rfl) fun _ => rfl, decodesAs_of_encode_Xnn (fun _ => rfl) fun _ => rfl,
    decodesAs_of_encode_Xnn (fun _ => rfl) fun _ => rfl, fun x s => ⟨?_, ?_, ?_⟩, fun x s hi => ?_, fun x s hi => ?_,
    fun x s hi => ?_⟩
  · exact ⟨_, rfl, getV_setV_same s x _, regs_setV s x _, unchanged_setV s x _⟩
  · exact ⟨_, rfl, rfl, unchanged_setDelayTimer s _⟩
  · exact ⟨_, rfl, rfl, soundActive_iff, unchanged_setSoundTimer s _⟩
  · obtain ⟨hr, op, hf, hd⟩ := hi
    obtain ⟨_, hdelay, _⟩ := decays_beginCycle s op
    refine ⟨_, step_of_decode hr hf hd, ?_⟩
    rw [getV_setV_same, hdelay]
  · obtain ⟨hr, op, hf, hd⟩ := hi
    obtain ⟨hcounter, _, _⟩ := decays_beginCycle s op
    exact ⟨_, step_of_decode hr hf hd, beginCycle_getV s op x, hcounter⟩
  · obtain ⟨hr, op, hf, hd⟩ := hi
    obtain ⟨hcounter, _, _⟩ := decays_beginCycle s op
    exact ⟨_, step_of_decode hr hf hd, beginCycle_getV s op x, hcounter⟩

end Sys2Proof.Machine
end

section
/-! Faults and the host's calls (60_exceptions): which instruction raises each code, and when; what a host call can do to
the state, and that a faulted core stays so until it is initialized. -/

namespace Sys2Proof.Machine

/-! ### The causes of the codes (R242) -/

/-- The table of R242, below its first row: which fault step 4 of which instruction raises on `s`, and the condition. No
row has the code of the fetch fault. -/
inductive FaultCause (s : State) : Fault → Instr → Prop where
  | readLoad {x : Nibble} (h : 0xFFF < s.dataAddr x.toNat) : FaultCause s .readOutOfRange (.ldVxMem x)
  | readSprite {x y n : Nibble} (hn : 0 < n.toNat) (h : 0xFFF < s.dataAddr (n.toNat - 1)) :
    FaultCause s .readOutOfRange (.drw x y n)
  | writeDigits {x : Nibble} (h : 0xFFF < s.dataAddr 2) : FaultCause s .writeOutOfRange (.ldBVx x)
  | writeDump {x : Nibble} (h : 0xFFF < s.dataAddr x.toNat) : FaultCause s .writeOutOfRange (.ldMemVx x)
  | callFull {nnn : Addr12} (h : s.sp.val = 16) : FaultCause s .stackOverflow (.call nnn)
  | returnEmpty (h : s.sp.val = 0) : FaultCause s .stackUnderflow .ret
  | cellOutside {x y n : Nibble} {r c : Nat} (hr : r < n.toNat) (hc : c < 8)
    (h : 2048 ≤ cellIndex (s.getV x).toNat (s.getV y).toNat r c) : FaultCause s .framebufferOutOfRange (.drw x y n)
  | skipPressed {x : Nibble} (h : 15 < (s.getV x).toNat) : FaultCause s .keyIndexOutOfRange (.skp x)
  | skipNotPressed {x : Nibble} (h : 15 < (s.getV x).toNat) : FaultCause s .keyIndexOutOfRange (.sknp x)

/-- Steps 1 to 3 write nothing the conditions read. -/
theorem FaultCause.of_beginCycle {s : State} {op : Word} {code : Fault} {i : Instr}
    (h : FaultCause (s.beginCycle op) code i) : FaultCause s code i := by
  have haddr (k : Nat) : (s.beginCycle op).dataAddr k = s.dataAddr k := congrArg (·.toNat + k) (beginCycle_I s op)
  cases h with
  | readLoad h => exact .readLoad (by rwa [haddr] at h)
  | readSprite hn h => exact .readSprite hn (by rwa [haddr] at h)
  | writeDigits h => exact .writeDigits (by rwa [haddr] at h)
  | writeDump h => exact .writeDump (by rwa [haddr] at h)
  | callFull h => exact .callFull (by rwa [beginCycle_sp] at h)
  | returnEmpty h => exact .returnEmpty (by rwa [beginCycle_sp] at h)
  | cellOutside hr hc h => exact .cellOutside hr hc (by rwa [beginCycle_getV, beginCycle_getV] at h)
  | skipPressed h => exact .skipPressed (by rwa [beginCycle_getV] at h)
  | skipNotPressed h => exact .skipNotPressed (by rwa [beginCycle_getV] at h)

/-- DXYN keeps the status, or one of its two checks fails. -/
theorem exec_drw_status_or_cause (x y n : Nibble) (s : State) :
    (∃ t, exec (.drw x y n) s = .next t ∧ t.status = s.status) ∨
    ∃ code, exec (.drw x y n) s = raiseFault code s ∧ FaultCause s code (.drw x y n) := by
  by_cases hread : ∀ r < n.toNat, s.dataAddr r ≤ 0xFFF
  · by_cases hbox : ∀ r < n.toNat, ∀ c < 8, cellIndex (s.getV x).toNat (s.getV y).toNat r c < 2048
    · exact .inl ⟨_, exec_drw_of_inRange hread hbox, rfl⟩
    · push Not at hbox
      obtain ⟨r, hr, c, hc, hcell⟩ := hbox
      exact .inr ⟨_, exec_drw_of_cell_ge hread hr hc hcell, .cellOutside hr hc hcell⟩
  · have hlast : 0xFFF < s.dataAddr (n.toNat - 1) := not_le.1 fun h => hread (dataAddr_le_of_last h)
    have hn : 0 < n.toNat := Nat.pos_of_ne_zero fun h => hread (by omega)
    exact .inr ⟨_, exec_drw_of_read_gt (by omega) hlast, .readSprite hn hlast⟩

/-- The instructions that may fault. -/
theorem status_mem_mayWrite {i : Instr} : .status ∈ mayWrite i ↔
    i = .ret ∨ (∃ nnn, i = .call nnn) ∨ (∃ x y n, i = .drw x y n) ∨
    ∃ x, i = .skp x ∨ i = .sknp x ∨ i = .ldBVx x ∨ i = .ldMemVx x ∨ i = .ldVxMem x := by
  cases i <;> simp [mayWrite]

/-- Step 4 keeps the status, or raises a fault the table lists for the instruction. -/
theorem exec_status_or_cause (i : Instr) (s : State) :
    (∃ t, exec i s = .next t ∧ t.status = s.status) ∨
    ∃ code, exec i s = raiseFault code s ∧ FaultCause s code i := by
  by_cases hw : .status ∈ mayWrite i
  · obtain rfl | ⟨nnn, rfl⟩ | ⟨x, y, n, rfl⟩ | ⟨x, rfl | rfl | rfl | rfl | rfl⟩ := status_mem_mayWrite.1 hw
    · rcases popReturn_cases s with ⟨_, e⟩ | ⟨hsp, e⟩
      · exact .inl ⟨_, e, rfl⟩
      · exact .inr ⟨_, e, .returnEmpty hsp⟩
    · rcases callTo_cases (zextAddr nnn) s with ⟨_, e⟩ | ⟨hsp, e⟩
      · exact .inl ⟨_, e, rfl⟩
      · exact .inr ⟨_, e, .callFull hsp⟩
    · exact exec_drw_status_or_cause x y n s
    · rcases le_or_gt (s.getV x).toNat 15 with h | h
      · exact .inl ⟨_, exec_skp_of_le h, skipIf_status s _⟩
      · exact .inr ⟨_, exec_skp_of_gt h, .skipPressed h⟩
    · rcases le_or_gt (s.getV x).toNat 15 with h | h
      · exact .inl ⟨_, exec_sknp_of_le h, skipIf_status s _⟩
      · exact .inr ⟨_, exec_sknp_of_gt h, .skipNotPressed h⟩
    · rcases le_or_gt (s.dataAddr 2) 0xFFF with h | h
      · exact .inl ⟨_, exec_ldBVx_of_le h, rfl⟩
      · exact .inr ⟨_, exec_ldBVx_of_gt h, .writeDigits h⟩
    · rcases le_or_gt (s.dataAddr x.toNat) 0xFFF with h | h
      · exact .inl ⟨_, exec_ldMemVx_of_le h, rfl⟩
      · exact .inr ⟨_, exec_ldMemVx_of_gt h, .writeDump h⟩
    · rcases le_or_gt (s.dataAddr x.toNat) 0xFFF with h | h
      · exact .inl ⟨_, exec_ldVxMem_of_le h, rfl⟩
      · exact .inr ⟨_, exec_ldVxMem_of_gt h, .readLoad h⟩
  · obtain ⟨t, ht⟩ := exec_answers_next i s
    exact .inl ⟨t, ht, exec_unchangedExcept_mayWrite i s t ht .status hw⟩

/-- A step that stops a running core raised a fetch fault, or the table lists its code for the instruction executed. -/
theorem step_fault_cause {s t : State} {code : Fault} {a op : Word} (hr : s.status = .running) (h : step s = .next t)
    (ht : t.status = .faulted code a op) :
    (code = .fetchOutOfRange ∧ s.fetchWord = none) ∨ ∃ i, NextInstr s i ∧ FaultCause s code i := by
  rcases step_cases s t h with ⟨hs, _⟩ | ⟨_, hf, hff⟩ | ⟨w, u, _, _, _, rfl⟩ | ⟨w, i, _, hf, hd, he⟩
  · exact absurd hr hs
  · cases hff
    cases ht
    exact .inl ⟨rfl, hf⟩
  · simp [hr] at ht
  · rcases exec_status_or_cause i (s.beginCycle w) with ⟨t', e, hkeep⟩ | ⟨code', e, hcause⟩ <;> cases e.symm.trans he
    · simp [hr, ht] at hkeep
    · cases ht
      exact .inr ⟨i, ⟨hr, w, hf, hd⟩, hcause.of_beginCycle⟩

/-! ### Key loads (R250, D24) -/

section
variable {keys : Vector Byte 16} {s t : State}

theorem loadKey_of_flags (h : ∀ k (_ : k < 16), keys[k] = 0#8 ∨ keys[k] = 1#8) :
    loadKey keys s = .next (s.setKey (keys.map fun b => b == 1#8)) :=
  if_pos (Vector.all_eq_true.2 fun k hk => by simpa using h k hk)

theorem loadKey_of_not_flag {k : Nat} (hk : k < 16) (h0 : keys[k] ≠ 0#8) (h1 : keys[k] ≠ 1#8) :
    loadKey keys s = .refused .keyValue :=
  if_neg fun h => by
    have hflag := Vector.all_eq_true.1 h k hk
    simp [h0, h1] at hflag

/-- A `loadKey` that is not refused has replaced the flags. -/
theorem loadKey_next (h : loadKey keys s = .next t) : t = s.setKey (keys.map fun b => b == 1#8) := by
  unfold loadKey at h
  split at h <;> cases h
  rfl

/-! ### What a host call can do (R252, R253) -/

/-- Everything a host call that is not refused can do; a read does nothing. -/
theorem hostMove_cases {op : HostOp} (h : hostMove op s = .next t) :
    (∃ font, op = .initializeCore font ∧ t = initializeCore font s) ∨
    (op = .doCycle ∧ step s = .next t) ∨
    (∃ bytes, op = .loadProgram bytes ∧ t = s.setMem (Memory.writeList s.mem 0x200 bytes)) ∨
    (∃ keys, op = .loadKey keys ∧ t = s.setKey (keys.map fun b => b == 1#8)) ∨
    (op = .clearDrawFlag ∧ t = s.setDrawFlag false) ∨ t = s := by
  cases op with
  | initializeCore font =>
    cases h
    exact .inl ⟨font, rfl, rfl⟩
  | doCycle => exact .inr (.inl ⟨rfl, h⟩)
  | loadProgram bytes => exact .inr (.inr (.inl ⟨bytes, rfl, loadProgram_next h⟩))
  | loadKey keys => exact .inr (.inr (.inr (.inl ⟨keys, rfl, loadKey_next h⟩)))
  | clearDrawFlag =>
    cases h
    exact .inr (.inr (.inr (.inr (.inl ⟨rfl, rfl⟩))))
  | loadScreen | readDrawFlag | snapshot | soundLevel =>
    cases h
    exact .inr (.inr (.inr (.inr (.inr rfl))))

/-- A host call leaves the state its effect gives, or is refused and leaves the one before it. -/
theorem afterMove_eq_or (op : HostOp) (s : State) :
    hostMove op s = .next (afterMove op s) ∨ afterMove op s = s := by
  unfold afterMove
  cases hostMove op s with
  | next t => exact .inl rfl
  | fault f => exact .inr rfl
  | refused r => exact .inr rfl

/-! ### A faulted core (R243, R246) -/

/-- Only `initialize` writes the status of a faulted core: its `doCycle` does nothing (R101). -/
theorem hostMove_status_of_not_running {op : HostOp} (hs : s.status ≠ .running) (hop : ∀ font, op ≠ .initializeCore font)
    (h : hostMove op s = .next t) : t.status = s.status := by
  rcases hostMove_cases h with ⟨font, rfl, _⟩ | ⟨_, hstep⟩ | ⟨_, _, rfl⟩ | ⟨_, _, rfl⟩ | ⟨_, rfl⟩ | rfl
  · exact absurd rfl (hop font)
  · cases (step_of_not_running hs).symm.trans hstep
    rfl
  all_goals rfl

theorem afterMove_status_of_not_running {op : HostOp} (hs : s.status ≠ .running)
    (hop : ∀ font, op ≠ .initializeCore font) : (afterMove op s).status = s.status := by
  rcases afterMove_eq_or op s with h | h
  · exact hostMove_status_of_not_running hs hop h
  · rw [h]

end

/-- Step 2 clears drawFlag, so a cycle that fetches does not see what it was (R103, D29). -/
theorem beginCycle_setDrawFlag (s : State) (b : Bool) (op : Word) : (s.setDrawFlag b).beginCycle op = s.beginCycle op := by
  simp only [State.beginCycle, timerDecay_eq]
  rfl

/-! ### The settled statements -/

/-- Settles O20: the causes of a step's fault, read off the table code by code. -/
theorem faultCodesHaveTheirCauses : Obligations.FaultCodesHaveTheirCauses := by
  intro s t code a op hr h ht
  rcases step_fault_cause hr h ht with ⟨rfl, hf⟩ | ⟨i, hi, hcause⟩
  · refine ⟨fun _ => not_le.1 fun hle => ?_, nofun, nofun, nofun, nofun, nofun, nofun⟩
    rw [fetchWord_of_lt (by omega)] at hf
    cases hf
  · refine ⟨?_, ?_, ?_, ?_, ?_, ?_, ?_⟩ <;> rintro rfl <;> cases hcause
    case readLoad x hout => exact .inl ⟨x, hi, hout⟩
    case readSprite x y n hn hout => exact .inr ⟨x, y, n, hi, hn, hout⟩
    case writeDigits x hout => exact .inl ⟨x, hi, hout⟩
    case writeDump x hout => exact .inr ⟨x, hi, hout⟩
    case callFull nnn hsp => exact ⟨⟨nnn, hi⟩, hsp⟩
    case returnEmpty hsp => exact ⟨hi, hsp⟩
    case cellOutside x y n r c hr hc hcell => exact ⟨x, y, n, hi, r, hr, c, hc, hcell⟩
    case skipPressed x hkey => exact ⟨x, .inl hi, hkey⟩
    case skipNotPressed x hkey => exact ⟨x, .inr hi, hkey⟩

/-- Settles O56: the one check of `loadKey`, value by value, and its one write. -/
theorem loadKeyReplacesFlags : Obligations.LoadKeyReplacesFlags := by
  refine ⟨fun keys s hflags => ⟨_, loadKey_of_flags hflags, fun k hk => ?_, unchanged_setKey s _⟩,
    fun keys s ⟨k, hk, h0, h1⟩ => loadKey_of_not_flag hk h0 h1⟩
  simp [State.keyDown, hk]

/-- Settles O58: each host call's one write, and step 2's clear of drawFlag. -/
theorem hostLeavesCoreAlone : Obligations.HostLeavesCoreAlone := by
  refine ⟨fun op s t hinit hcycle h => ?_, fun s hr hf => ?_⟩
  · rcases hostMove_cases h with ⟨font, rfl, _⟩ | ⟨rfl, _⟩ | ⟨bytes, rfl, rfl⟩ | ⟨keys, rfl, rfl⟩ | ⟨rfl, rfl⟩ | rfl
    · exact absurd rfl (hinit font)
    · exact absurd rfl hcycle
    · exact ⟨(unchanged_setMem s _).mono (by simp), fun hno => absurd rfl (hno bytes), fun _ _ => rfl, fun _ => rfl⟩
    · exact ⟨(unchanged_setKey s _).mono (by simp), fun _ _ => rfl, fun hno => absurd rfl (hno keys), fun _ => rfl⟩
    · exact ⟨(unchanged_setDrawFlag s _).mono (by simp), fun _ _ => rfl, fun _ _ => rfl, fun hno => absurd rfl hno⟩
    · exact ⟨.refl _ _, fun _ _ => rfl, fun _ _ => rfl, fun _ => rfl⟩
  · obtain ⟨w, hw⟩ := Option.ne_none_iff_exists'.1 hf
    rw [step_of_fetchWord_some hr hw, step_of_fetchWord_some (s := clearDrawFlag s) hr hw, clearDrawFlag,
      beginCycle_setDrawFlag]

/-- Settles O59: a move other than `initialize` keeps a faulted status, so it is an invariant of the run; a program ends on
a running core only. -/
theorem onlyInitializeLeavesFaulted : Obligations.OnlyInitializeLeavesFaulted := by
  refine ⟨fun op s t hs h => ⟨fun hrun => ?_, ?_⟩, fun r k hs hm j hj => ?_⟩
  · by_contra hno
    have hop : ∀ font, op ≠ .initializeCore font := fun font hfont => hno ⟨font, hfont⟩
    exact hs ((hostMove_status_of_not_running hs hop h).symm.trans hrun)
  · rintro ⟨font, rfl⟩
    cases h
    rfl
  · have hst : (r.state j).status = (r.state k).status :=
      Run.induction (P := fun u => u.status = (r.state k).status) hm rfl
        (fun op u hop hu => (afterMove_status_of_not_running (hu ▸ hs) hop).trans hu) j hj
    exact ⟨hst, fun ⟨hrun, _⟩ => hs (hst.symm.trans hrun)⟩

/-- Settles O57: each read gives its field, the screen cell by cell, and leaves the state. -/
theorem hostReadsScreenAndSound : Obligations.HostReadsScreenAndSound := fun s =>
  ⟨rfl, rfl, fun _ _ => Vector.getElem_ofFn .., rfl, rfl, ⟨s.snapshot, rfl, rfl, rfl, fun _ => rfl, rfl, rfl, rfl⟩, rfl, rfl,
    rfl⟩

end Sys2Proof.Machine
end

section
/-! Reset and program loading (70_reset): the memory `initialize` leaves, both outcomes of `loadProgram`, and the session
before its first `initialize`. -/

namespace Sys2Proof.Machine

/-! ### The installed font (R280, R281) -/

/-- Away from the font table, reset leaves 0. -/
theorem resetByte_of_outside {a : Nat} (ha : a < 0x050 ∨ 0x0A0 ≤ a) : resetByte a = 0#8 :=
  if_neg fun ⟨hlo, hhi⟩ => by
    simp only [Config.fontBase, Config.fontBytes] at hlo hhi
    omega

/-- In the font table, reset leaves the default font. -/
theorem resetByte_font {j : Nat} (hj : j < 80) : resetByte (0x050 + j) = Config.defaultFont[j] := by
  rw [resetByte, if_pos ⟨Nat.le_add_right _ _, Nat.add_lt_add_left hj _⟩]
  simp [hj]

theorem read_installFont_font (font : Config.Font) {j : Nat} (hj : j < 80) :
    Memory.read (installFont font) (0x050 + j) = font[j] := by
  simp [installFont, Memory.read_writeList, hj]

theorem read_installFont_of_outside (font : Config.Font) {a : Nat} (ha : a < 0x050 ∨ 0x0A0 ≤ a) :
    Memory.read (installFont font) a = 0#8 := by
  have hnot : ¬ (Config.fontBase ≤ a ∧ a - Config.fontBase < font.toList.length) := by
    simp only [Config.fontBase, Vector.length_toList]
    omega
  rw [installFont, Memory.read_writeList, dif_neg hnot, Memory.read_nil, resetByte_of_outside ha]

/-- The default font's bytes are the reset bytes, and a canonical memory lists none of those. -/
theorem installFont_defaultFont : installFont Config.defaultFont = [] := by
  refine Memory.eq_of_read_eq (wf_installFont _) Memory.wf_nil fun a => ?_
  rw [Memory.read_nil]
  by_cases ha : a < 0x050 ∨ 0x0A0 ≤ a
  · rw [read_installFont_of_outside _ ha, resetByte_of_outside ha]
  · obtain ⟨j, rfl⟩ : ∃ j, a = 0x050 + j := ⟨a - 0x050, by omega⟩
    have hj : j < 80 := by omega
    rw [read_installFont_font _ hj, resetByte_font hj]

/-- Reset is what `initialize` with the default font leaves of itself. -/
theorem initializeCore_defaultFont_reset : initializeCore Config.defaultFont State.reset = State.reset := by
  rw [initializeCore, installFont_defaultFont]
  rfl

/-! ### Registers and keys of the reset state (R280) -/

theorem getV_reset (r : Nibble) : State.reset.getV r = 0#8 := Vector.getElem_replicate _

theorem keyDown_reset (k : Nat) : State.reset.keyDown k = false := by
  rw [State.keyDown, State.reset, Vector.getElem?_replicate]
  split <;> rfl

/-! ### Both outcomes of `loadProgram` (R282, D7) -/

section
variable {bytes : List Byte} {s : State}

theorem loadProgram_of_le (h : bytes.length ≤ 0xE00) :
    loadProgram bytes s = .next (s.setMem (Memory.writeList s.mem 0x200 bytes)) := if_neg (not_lt.2 h)

theorem loadProgram_of_gt (h : 0xE00 < bytes.length) : loadProgram bytes s = .refused .loadError := if_pos h

end

/-! ### The settled statements -/

/-- Settles O54: `initialize` writes the font and keeps the draw counter; every other field is that of reset. -/
theorem initializeResetsEverything : Obligations.InitializeResetsEverything :=
  ⟨fun font _ => ⟨getV_reset, rfl, rfl, fun _ hj => Vector.getElem_replicate hj, rfl, rfl, rfl,
      fun _ hj => read_installFont_font font hj, fun _ ha => read_installFont_of_outside font ha,
      fun _ => BitVec.getLsbD_zero, keyDown_reset, rfl, rfl, rfl, rfl, rfl⟩,
    initializeCore_defaultFont_reset⟩

/-- Settles O55: up to 0xE00 bytes are one `writeList` at 0x200, and more are refused. -/
theorem loadProgramCopiesOrRefuses : Obligations.LoadProgramCopiesOrRefuses :=
  ⟨fun _ s h => ⟨_, loadProgram_of_le h, fun _ hk => readMem_setMem_writeList_add hk,
      fun _ ha => readMem_setMem_writeList_of_outside ha, unchanged_setMem s _⟩,
    fun _ _ h => loadProgram_of_gt h⟩

/-- Settles O60: without a state, the call is `initialize` or refused; with one it is the host call on it. -/
theorem nothingRunsBeforeInitialize : Obligations.NothingRunsBeforeInitialize := by
  refine ⟨fun op hop => ?_, fun _ => rfl, congrArg _ initializeCore_defaultFont_reset, fun _ _ => rfl⟩
  cases op with
  | initializeCore font => exact absurd rfl (hop font)
  | loadProgram | loadKey | doCycle | loadScreen | readDrawFlag | clearDrawFlag | snapshot | soundLevel => rfl

end Sys2Proof.Machine
end
